-- ==== Sys2Proof/Word.lean ====
section
/-! DEFINITION. The word types of RNDM CORE (00_scope.md rules R8, R9, R10). -/

namespace Sys2Proof

/-- `u64`: a state word, a mixer input or output, one output of the bit engine (R8, R10).
`+`, `*`, `^^^` and `>>>` on it are `+64`, `*64`, `XOR` and the logical `>>` of R11. -/
abbrev Word := BitVec 64

/-- The 8-bit command word `CMD`, bit 0 least significant (R9, R60). -/
abbrev CmdWord := BitVec 8

end Sys2Proof
end

