-- ==== Sys2Proof/Config.lean ====
section
/-! DEFINITION. The implementation parameters `OPW` and `K_RULE` (00_scope.md rules R5, R7), one reading of the
time port (20_memory.md rule R49), and the free clock readings. -/

namespace Sys2Proof

/-- `OPW`, the width of the operand and result ports: a number of bits, or `INF`, unbounded ports (R5).
The value is legal when it is at least 65: `Params.wf`. -/
inductive OperandWidth where
  | bits (n : Nat)
  | inf
  deriving DecidableEq, Repr

/-- `K_RULE`, how UBELOW and RANGE compute the draw width from the bound (R7, R140). -/
inductive KRule where
  | ceilLog2
  | bitlen
  deriving DecidableEq, Repr

/-- The two parameters of a core, constant for its life (R31). -/
structure Params where
  opw : OperandWidth
  kRule : KRule
  deriving DecidableEq, Repr

/-- One reading of the time port: seven unsigned fields with the widths of R49. Any values are a reading:
the core does not check that they form a date (R49, R100). -/
structure ClockReading where
  year : BitVec 14
  month : BitVec 4
  day : BitVec 5
  hour : BitVec 5
  minute : BitVec 6
  second : BitVec 6
  msec : BitVec 10
  deriving DecidableEq, Repr, Inhabited

/-- The reading the clock gives at its `n`-th sample when the state's time port lists none: a FREE VALUE
(R49, 93_implementation_defined.md U1). Nothing relates two samples; assumption log 5. -/
opaque Config.clockReading : Nat → ClockReading

end Sys2Proof
end

