-- ==== Sys2Proof/Syntax.lean ====
section
/-! DEFINITION. The eight commands of RNDM CORE (30_encoding.md rules R61, R62), one constructor per row of
spec/opcode_table.json. A constructor carries the flags the command word holds; the operands A and B travel on
their own ports (R60) and are read from the state. -/

namespace Sys2Proof

/-- One command as its command word gives it. Each legal word of R62 is one value and each value is one legal word,
so no value is ill-formed; which words are legal is `isLegalWord` (WellFormed.lean). -/
inductive Instr where
  /-- MIX64, `0x10` (R93). -/
  | mix64
  /-- TSEED, `0x20` (R102). -/
  | tseed
  /-- RESEED, `0x30` to `0x33` (R104): `sv` says operand A is the seed, `iv` that operand B is a new stream id (R62). -/
  | reseed (sv iv : Bool)
  /-- SETSID, `0x40` (R105). -/
  | setsid
  /-- NEXT64, `0x50` (R123). -/
  | next64
  /-- RANDBITS, `0x60` (R125). -/
  | randbits
  /-- UBELOW, `0x70` (R142). -/
  | ubelow
  /-- RANGE, `0x80` and `0x81` (R144): `inc` says the range includes its upper bound (R62). -/
  | range (inc : Bool)
  deriving DecidableEq, Repr

end Sys2Proof
end

