-- ==== Sys2Proof/WellFormed.lean ====
section
/-! DEFINITION. What a legal command word and a legal parameter choice are, written as the spec lists them and
not through the decoder. The presentability of operands is `Command.presentable` (Machine/Operands.lean). -/

namespace Sys2Proof

/-- "The complete list of legal command words": twelve out of 256 (30_encoding.md rule R62). -/
def legalWords : List CmdWord :=
  [0x10#8, 0x20#8, 0x30#8, 0x31#8, 0x32#8, 0x33#8, 0x40#8, 0x50#8, 0x60#8, 0x70#8, 0x80#8, 0x81#8]

/-- The word is one of the twelve legal words of R62; every other word is ILLEGAL (R70). -/
def isLegalWord (w : CmdWord) : Bool := legalWords.contains w

/-- `OPW` is an integer `>= 65`, or `INF` (R5). -/
def OperandWidth.wf : OperandWidth → Bool
  | .bits n => decide (65 ≤ n)
  | .inf => true

/-- A legal choice of the parameters; every value of `K_RULE` is legal (R5, R7). -/
def Params.wf (p : Params) : Bool := p.opw.wf

end Sys2Proof
end

