-- ==== Sys2Proof/Decode.lean ====
section
/-! DEFINITION. The decoder of command words (30_encoding.md rules R60 to R62, R68, R69), total on all 256 words
and rejecting by name, and after it the encoder, from the same tables. -/

namespace Sys2Proof

/-- Why a word is no command. Both answer the status ILLEGAL; the opcode is checked first (R187). -/
inductive DecodeError where
  /-- `OP` is `0x0` or `0x9` to `0xF` (R68). -/
  | reservedOpcode
  /-- `OP` is assigned and a flag bit that must be 0 is 1 (R69). -/
  | reservedFlag
  deriving DecidableEq, Repr

/-- `OP = CMD[7:4]` (R60). -/
def opField (w : CmdWord) : BitVec 4 := w.extractLsb' 4 4

/-- `FL = CMD[3:0]` (R60). -/
def flField (w : CmdWord) : BitVec 4 := w.extractLsb' 0 4

/-- `SV = CMD[0]` of RESEED (R62). -/
def flagSV (fl : BitVec 4) : Bool := fl.getLsbD 0

/-- `IV = CMD[1]` of RESEED (R62). -/
def flagIV (fl : BitVec 4) : Bool := fl.getLsbD 1

/-- `INC = CMD[0]` of RANGE (R62). -/
def flagINC (fl : BitVec 4) : Bool := fl.getLsbD 0

/-- The flag bits that must be 0 for an assigned opcode (R62): `CMD[3:2]` of RESEED, `CMD[3:1]` of RANGE,
all four elsewhere. -/
def mustBeZero (op : BitVec 4) : BitVec 4 :=
  if op = 0x3#4 then 0b1100#4 else if op = 0x8#4 then 0b1110#4 else 0b1111#4

/-- The command an opcode and its flags name, before the must-be-zero check; `none` for a reserved opcode (R61, R68). -/
def opcodeMap (op fl : BitVec 4) : Option Instr :=
  match op.toNat with
  | 0x1 => some .mix64
  | 0x2 => some .tseed
  | 0x3 => some (.reseed (flagSV fl) (flagIV fl))
  | 0x4 => some .setsid
  | 0x5 => some .next64
  | 0x6 => some .randbits
  | 0x7 => some .ubelow
  | 0x8 => some (.range (flagINC fl))
  | _ => none

/-- The decoder: the opcode first, then the must-be-zero flag bits (R68, R69, R187); operands are not looked at. -/
def decode (w : CmdWord) : Except DecodeError Instr :=
  match opcodeMap (opField w) (flField w) with
  | none => .error .reservedOpcode
  | some i => if flField w &&& mustBeZero (opField w) = 0 then .ok i else .error .reservedFlag

/-- The decoder on an instruction given as `nbits` bits numbered as spec/opcode_table.json numbers them: a command
word has 8 bits and nothing follows it (R60, R71). -/
def decodeTableWord (nbits w : Nat) : Option Instr :=
  if nbits = 8 ∧ w < 256 then (decode (BitVec.ofNat 8 w)).toOption else none

/-- The opcode of a command (R61). -/
def Instr.opcode : Instr → BitVec 4
  | .mix64 => 0x1#4
  | .tseed => 0x2#4
  | .reseed _ _ => 0x3#4
  | .setsid => 0x4#4
  | .next64 => 0x5#4
  | .randbits => 0x6#4
  | .ubelow => 0x7#4
  | .range _ => 0x8#4

/-- The flag field of a command (R62). -/
def Instr.flags : Instr → BitVec 4
  | .mix64 => 0
  | .tseed => 0
  | .reseed sv iv => 0#2 ++ BitVec.ofBool iv ++ BitVec.ofBool sv
  | .setsid => 0
  | .next64 => 0
  | .randbits => 0
  | .ubelow => 0
  | .range inc => 0#3 ++ BitVec.ofBool inc

/-- The command word of a command (R60). -/
def encode (i : Instr) : CmdWord := i.opcode ++ i.flags

end Sys2Proof
end

