-- ==== Sys2Proof/Machine/State.lean ====
section
/-! DEFINITION. The state of RNDM CORE as plain data: the two registers (10_state.md rules R20 to R22), the command
in progress and the response port (70_reset_and_hazards.md rule R211), and the core's inputs and parameters
(20_memory.md rule R41; 10_state.md rule R31). There is no memory, no program counter and no flag (R24, R25, R40). -/

namespace Sys2Proof.Machine

/-- STATUS of a response (30_encoding.md rule R66); the codes are `Status.code`. -/
inductive Status where
  | ok
  | invalidArgument
  | invalidRange
  | illegal
  | capacity
  deriving DecidableEq, Repr

/-- A response (R65): the status, and RESULT as an absent option when RV = 0. -/
structure Response where
  status : Status
  result : Option Int
  deriving DecidableEq, Repr

/-- A command as the host presents it (R60): the command word and the two operands, each the integer its port
carries (R64). -/
structure Command where
  cmd : CmdWord
  a : Int
  b : Int
  deriving DecidableEq, Repr

/-- The temporaries of UBELOW or RANGE between two draws (10_state.md rule R28): the bound, the draw width and the
base added to the accepted draw (0 for UBELOW, `min` for RANGE). -/
structure Sampling where
  n : Nat
  k : Nat
  base : Int
  deriving DecidableEq, Repr

/-- The reset input over one step (70_reset_and_hazards.md rule R210; assumption log 6). -/
inductive ResetInput where
  /-- Not asserted. -/
  | deasserted
  /-- Asserted when the step begins: no command is taken, one in progress is abandoned. -/
  | asserted
  /-- Asserted while the step works on a command, before its response: the command is abandoned when it has sampled the
  clock `samples` times, or as often as it would have if that is less. -/
  | assertedDuring (samples : Nat)
  deriving DecidableEq, Repr

/-- The machine. `stateReg` and `streamReg` are the architectural state (R20); `sampling` and `response` are the
other two rows of R211; the rest are inputs and parameters, which the spec keeps apart from the state (R31) and
which stand here because a step is a function of State alone. -/
structure State where
  /-- STATE, the SplitMix64 counter; 0 is the uninitialised sentinel (R21). -/
  stateReg : Word
  /-- STREAM, the stream identifier (R22). -/
  streamReg : Word
  /-- The command in progress: a rejection loop that has not accepted a draw yet (R141, R143); assumption log 3. -/
  sampling : Option Sampling
  /-- The response delivered by the last step, if it delivered one (R41, R65); assumption log 4. -/
  response : Option Response
  /-- The commands the host presents on the command port, in order (R24, R41, R46); assumption log 1. -/
  commands : List Command
  /-- Operand port A of the command being executed (R12, R64); assumption log 2. -/
  opA : Int
  /-- Operand port B of the command being executed (R12, R64); assumption log 2. -/
  opB : Int
  /-- The readings the time port presents at the coming clock samples (R49); past the end they are free values,
  assumption log 5. -/
  timePort : List ClockReading
  /-- How many times the clock has been sampled: the model's own counter, the index of the free readings
  (assumption log 5). -/
  clockSamples : Nat
  /-- The reset input over the coming steps, deasserted past the end (R210); assumption log 6. -/
  resetPort : List ResetInput
  /-- The parameters `OPW` and `K_RULE` (R5, R7, R31); assumption log 7. -/
  params : Params
  /-- How many draws of a rejection loop one step makes at most: the model's own, no rule depends on it (R143;
  assumption log 3). -/
  drawBudget : Nat
  deriving DecidableEq, Repr

/-- Faults: none. Errors of this hardware are responses, after which the machine goes on (60_exceptions.md rules
R180, R188, R189), so no step raises a fault. -/
inductive Fault where
  deriving DecidableEq, Repr

/-- Why a step is refused. -/
inductive Refusal where
  /-- Raised by an arm of `exec` for an instruction without a meaning; no arm raises it. Safe. -/
  | notModelled (mnemonic : String)
  /-- Raised by the step, before decoding, for a command whose operand A or B does not fit `OPW` bits: it "cannot be
  presented at all ... a refusal at the boundary" (R64; U6). Safe; assumption log 9. -/
  | operandNotPresentable
  deriving DecidableEq, Repr

/-- The machine right after reset: STATE = 0, STREAM = 0, no command in progress, no response pending (R29, R211).
The inputs and the counter are empty (assumption log 1, 2, 5, 6); the parameters are the spec's default `CEIL_LOG2`
and its example width 128 (R5, R7; assumption log 7); a step makes at most `2^64` draws (R143; assumption log 3). -/
def State.reset : State where
  stateReg := 0#64
  streamReg := 0#64
  sampling := none
  response := none
  commands := []
  opA := 0
  opB := 0
  timePort := []
  clockSamples := 0
  resetPort := []
  params := ⟨.bits 128, .ceilLog2⟩
  drawBudget := 18446744073709551616

end Sys2Proof.Machine
end

