-- ==== Sys2Proof/Machine/Operands.lean ====
section
/-! DEFINITION. The operand and result ports: which integers fit `OPW` bits, how a command narrows an operand, how a
word is placed on the result port (30_encoding.md rules R64, R67; 00_scope.md rules R5, R6, R11). -/

namespace Sys2Proof

/-- The integer is presentable on a two's-complement port of the width: `-2^(OPW-1) .. 2^(OPW-1)-1`, or any integer
when `OPW = INF` (R64). -/
def OperandWidth.fits (w : OperandWidth) (v : Int) : Bool :=
  match w with
  | .bits n => decide (-((2 ^ (n - 1) : Nat) : Int) ≤ v ∧ v < ((2 ^ (n - 1) : Nat) : Int))
  | .inf => true

/-- `KMAX`, the largest bit count RANDBITS accepts: `OPW - 1`, or no limit (R6). -/
def OperandWidth.kmax : OperandWidth → Option Nat
  | .bits n => some (n - 1)
  | .inf => none

/-- The bit count is over `KMAX` (R125: "only when OPW is finite"). -/
def OperandWidth.overCapacity (w : OperandWidth) (k : Int) : Bool :=
  match w.kmax with
  | some m => decide ((m : Int) < k)
  | none => false

end Sys2Proof

namespace Sys2Proof.Machine

/-- `mod64(v) = v mod 2^64`, with the non-negative remainder (R9, R11, R94). -/
def mod64 (v : Int) : Word := BitVec.ofInt 64 v

/-- `zext(v)`: a word on the signed result port, as the non-negative integer it is (R11, R67). -/
def zext (w : Word) : Int := (w.toNat : Int)

/-- The bits of an integer on a port of `n` bits, two's complement (R41, R64). -/
def portBits (n : Nat) (v : Int) : BitVec n := BitVec.ofInt n v

/-- The integer the bits of a port of `n` bits carry (R41, R64). -/
def portValue (n : Nat) (v : BitVec n) : Int := v.toInt

/-- Both operands can be presented on ports of the width (R64, R72; U6). -/
def Command.presentable (w : OperandWidth) (c : Command) : Bool := w.fits c.a && w.fits c.b

end Sys2Proof.Machine
end

