-- ==== Sys2Proof/Machine/Flags.lean ====
section
/-! DEFINITION. The core has no status flags and no condition codes (10_state.md rule R25): the outcome of a command is
the STATUS of its response. This file holds the status codes and the operand checks that decide a status
(30_encoding.md rule R66; 60_exceptions.md rules R180, R187). -/

namespace Sys2Proof.Machine

/-- The 3-bit code of a status; 5, 6 and 7 are never produced (R66). -/
def Status.code : Status → BitVec 3
  | .ok => 0
  | .invalidArgument => 1
  | .invalidRange => 2
  | .illegal => 3
  | .capacity => 4

/-- `RV`: RESULT carries a value (R65). -/
def Response.rv (r : Response) : Bool := r.result.isSome

/-- The operand check of RANDBITS: a negative bit count first, then `KMAX` (R125, R187). -/
def statusRandbits (w : OperandWidth) (k : Int) : Status :=
  if k < 0 then .invalidArgument else if w.overCapacity k then .capacity else .ok

/-- The operand check of UBELOW (R142). -/
def statusUbelow (n : Int) : Status := if n ≤ 0 then .invalidArgument else .ok

/-- The size of the range of RANGE, `n = B - A + INC`, exact (R144). -/
def rangeSize (a b : Int) (inc : Bool) : Int := b - a + (if inc then 1 else 0)

/-- The check of RANGE on the size of its range (R144). -/
def statusRange (n : Int) : Status := if n ≤ 0 then .invalidRange else .ok

end Sys2Proof.Machine
end

