-- ==== Sys2Proof/Machine/Ops.lean ====
section
/-! DEFINITION. The named operations over the registers and the ports: writing STATE and STREAM, sampling the clock,
delivering a response, raising an error, accepting a command, idling, and the reset input. -/

namespace Sys2Proof.Machine

/-- `STATE <- v` (R12, R21). -/
def State.writeState (s : State) (v : Word) : State := { s with stateReg := v }

/-- `STREAM <- v` (R12, R22). -/
def State.writeStream (s : State) (v : Word) : State := { s with streamReg := v }

/-- `ClockSample()`: one reading of the time port, a fresh one at every sample (R12, R49). The reading is the one the
state's time port lists next; where it lists none it is the free value of that sample (assumption log 5). -/
def State.clockSample (s : State) : ClockReading × State :=
  match s.timePort with
  | r :: rest => (r, { s with timePort := rest, clockSamples := s.clockSamples + 1 })
  | [] => (Config.clockReading s.clockSamples, { s with clockSamples := s.clockSamples + 1 })

/-- `respond(status, result)`: ends the command and produces its one response (R12, R65). -/
def State.respond (s : State) (st : Status) (r : Option Int) : State :=
  { s with response := some ⟨st, r⟩, sampling := none }

/-- `respond(OK, result)` with RV = 1 (R65). -/
def State.respondOk (s : State) (v : Int) : State := s.respond .ok (some v)

/-- `respond(OK, zext(w))` for a word result (R67). -/
def State.respondWord (s : State) (w : Word) : State := s.respondOk (zext w)

/-- `raise status`: the error response, which is all that taking an exception is on this hardware (R12, R180, R185,
R188): RV = 0, nothing saved, no register written. There is no return from it: the next command is accepted exactly
as after an OK response (R189). -/
def State.raise (s : State) (st : Status) : State := s.respond st none

/-- The draws made were rejected: the command stays in progress and no response is produced (R141, R143; assumption
log 3). -/
def State.keepSampling (s : State) (p : Sampling) : State := { s with sampling := some p, response := none }

/-- The core accepts the command `c` and the host goes on to `rest`: A and B stand on the operand ports, and the
response of the command before has been delivered (R41, R46). -/
def State.accept (s : State) (c : Command) (rest : List Command) : State :=
  { s with commands := rest, opA := c.a, opB := c.b, response := none }

/-- No command is presented and none is in progress: the core is idle and keeps STATE and STREAM (R206;
assumption log 10). -/
def State.idle (s : State) : State := { s with response := none }

/-- The reset input over this step (R210). -/
def State.resetInput (s : State) : ResetInput := s.resetPort.headD .deasserted

/-- The reset input is asserted in this step, at its beginning or while it works (R210). -/
def State.resetAsserted (s : State) : Bool :=
  match s.resetInput with
  | .deasserted => false
  | .asserted => true
  | .assertedDuring _ => true

/-- The reset input over this step has been looked at (assumption log 6). -/
def State.tickReset (s : State) : State := { s with resetPort := s.resetPort.tail }

/-- The core in its reset state: no command in progress, no response (R29, R210, R211). The inputs are the host's and
keep their values; so do the parameters. -/
def State.resetCore (s : State) : State :=
  { s with stateReg := 0#64, streamReg := 0#64, sampling := none, response := none }

/-- A reset asserted when the step begins: the command in progress ends without a response (R210). -/
def State.hardReset (s : State) : State := s.tickReset.resetCore

/-- How often a command that takes `s` to `t` has sampled the clock when it is cut short: `m` times, or as often as the
whole of it would (U14). -/
def State.cutSamples (s t : State) (m : Nat) : Nat := min m (t.clockSamples - s.clockSamples)

/-- A reset asserted during the step that would take `s` to `t`: the command is taken and abandoned, it gives no response,
and of what it did only its clock samples are left, since the reset overwrites the registers (R210; U14). -/
def State.cutShort (s t : State) (m : Nat) : State :=
  { t.resetCore with
    timePort := s.timePort.drop (s.cutSamples t m)
    clockSamples := s.clockSamples + s.cutSamples t m }

end Sys2Proof.Machine
end

