-- ==== Sys2Proof/Machine/Mixer.lean ====
section
/-! DEFINITION. The first layer, the mixer, and its command MIX64 (40_mixer.md). -/

namespace Sys2Proof.Machine

/-- The first multiplier (R90). -/
def mixM1 : Word := 0xBF58476D1CE4E5B9#64

/-- The second multiplier (R90). -/
def mixM2 : Word := 0x94D049BB133111EB#64

/-- One xor-shift, `v XOR (v >> n)` (R91). -/
def xorShift (n : Nat) (v : Word) : Word := v ^^^ (v >>> n)

/-- `mix64`: three xor-shifts by 30, 27 and 31, a multiplication after each of the first two (R90, R91). -/
def mix64 (x : Word) : Word := xorShift 31 (xorShift 27 (xorShift 30 x * mixM1) * mixM2)

/-- MIX64 (R93): the mix of A reduced to 64 bits; no register is read or written, no clock sample. -/
def execMix64 (s : State) : Host.Outcome State Fault Refusal :=
  .next (s.respondWord (mix64 (mod64 s.opA)))

end Sys2Proof.Machine
end

