-- ==== Sys2Proof/Machine/Seeding.lean ====
section
/-! DEFINITION. The second layer, seeding, and its commands TSEED, RESEED and SETSID (41_seeding.md). -/

namespace Sys2Proof.Machine

/-- `T`, the weighted sum of the seven fields, as the exact integer (R100). -/
def timeCode (r : ClockReading) : Nat :=
  r.year.toNat * 10 ^ 13 + r.month.toNat * 10 ^ 11 + r.day.toNat * 10 ^ 9 + r.hour.toNat * 10 ^ 7
    + r.minute.toNat * 10 ^ 5 + r.second.toNat * 10 ^ 3 + r.msec.toNat

/-- The time-based seed of one reading: `mix64(T)`, the sum taken modulo `2^64` (R100, R101). -/
def seedOfReading (r : ClockReading) : Word := mix64 (BitVec.ofNat 64 (timeCode r))

/-- `time_seed64()`: one clock sample, mixed; no register (R101). -/
def timeSeed64 (s : State) : Word × State :=
  (seedOfReading s.clockSample.1, s.clockSample.2)

/-- The base of a seeding: the mixed seed if one is given, else the time-based seed (R103). -/
def seedBase (seed : Option Word) (s : State) : Word × State :=
  match seed with
  | some v => (mix64 v, s)
  | none => timeSeed64 s

/-- The state a seeding writes: `mix64(base XOR mix64(STREAM))`, with 0 remapped to 1 (R103, R109). -/
def seedState (base stream : Word) : Word :=
  if mix64 (base ^^^ mix64 stream) = 0#64 then 1#64 else mix64 (base ^^^ mix64 stream)

/-- STREAM is written first when a stream id is given (R103). -/
def State.storeStream (s : State) (sid : Option Word) : State :=
  match sid with
  | some i => s.writeStream i
  | none => s

/-- `reseed_proc(seed_opt, sid_opt)` (R103): STREAM first, then the base, then STATE; it returns the new STATE. -/
def reseedProc (seed sid : Option Word) (s : State) : Word × State :=
  let b := seedBase seed (s.storeStream sid)
  let t := b.2.writeState (seedState b.1 b.2.streamReg)
  (t.stateReg, t)

/-- TSEED (R102): the time-based seed of one clock sample; no register is read or written. -/
def execTseed (s : State) : Host.Outcome State Fault Refusal :=
  .next ((timeSeed64 s).2.respondWord (timeSeed64 s).1)

/-- RESEED (R104): seed from A when `sv`, stream id from B when `iv`, each reduced to 64 bits (R106, R107); the
result is the new STATE. -/
def execReseed (sv iv : Bool) (s : State) : Host.Outcome State Fault Refusal :=
  let seed := if sv then some (mod64 s.opA) else none
  let sid := if iv then some (mod64 s.opB) else none
  let r := reseedProc seed sid s
  .next (r.2.respondWord r.1)

/-- SETSID (R105): STREAM from A reduced to 64 bits, then a time-based seeding whose result is dropped; RV = 0. -/
def execSetsid (s : State) : Host.Outcome State Fault Refusal :=
  .next ((reseedProc none none (s.writeStream (mod64 s.opA))).2.respond .ok none)

end Sys2Proof.Machine
end

