-- ==== Sys2Proof/Machine/BitEngine.lean ====
section
/-! DEFINITION. The third layer, the bit engine, and its commands NEXT64 and RANDBITS (42_bit_engine.md). -/

namespace Sys2Proof.Machine

/-- The increment GAMMA (R120). -/
def gamma : Word := 0x9E3779B97F4A7C15#64

/-- The lazy seed: a STATE that is the sentinel 0 is seeded from the clock and the current STREAM (R121, R122). -/
def lazySeed (s : State) : State :=
  if s.stateReg = 0#64 then (reseedProc none none s).2 else s

/-- The advance step: `STATE <- STATE +64 GAMMA` (R121). -/
def advance (s : State) : State := s.writeState (s.stateReg + gamma)

/-- `next_u64()`: lazy seed if uninitialised, advance, and the mix of the new STATE (R121). -/
def nextU64 (s : State) : Word × State :=
  let t := advance (lazySeed s)
  (mix64 t.stateReg, t)

/-- The number of words `randbits(k)` draws, `ceil(k / 64)` (R127). -/
def wordsFor (k : Nat) : Nat := (k + 63) / 64

/-- The word loop of `randbits` (R124), run `fuel` times at most: `rem` bits are still to be drawn and `r` holds the
bits drawn so far. -/
def randLoop : Nat → Nat → Nat → State → Nat × State
  | 0, _, r, s => (r, s)
  | fuel + 1, rem, r, s =>
    if rem = 0 then (r, s)
    else
      let w := nextU64 s
      let t := min 64 rem
      randLoop fuel (rem - t) ((r <<< t) ||| (w.1.toNat >>> (64 - t))) w.2

/-- `randbits(k)` (R124): `ceil(k / 64)` turns of the loop leave no bit to draw. -/
def randbits (k : Nat) (s : State) : Nat × State := randLoop (wordsFor k) k 0 s

/-- NEXT64 (R123): one word. -/
def execNext64 (s : State) : Host.Outcome State Fault Refusal :=
  .next ((nextU64 s).2.respondWord (nextU64 s).1)

/-- RANDBITS (R125): INVALID_ARGUMENT for a negative bit count, CAPACITY for one over `KMAX`, both before any draw;
else `randbits(A)`. -/
def execRandbits (s : State) : Host.Outcome State Fault Refusal :=
  .next <|
    if statusRandbits s.params.opw s.opA = .ok then
      (randbits s.opA.toNat s).2.respondOk (randbits s.opA.toNat s).1
    else s.raise (statusRandbits s.params.opw s.opA)

end Sys2Proof.Machine
end

