-- ==== Sys2Proof/Machine/RangeSampler.lean ====
section
/-! DEFINITION. The fourth layer, the range sampler, and its commands UBELOW and RANGE (43_range_sampler.md). The
rejection loop has no bound (R143): one step of the machine makes at most `drawBudget` draws, and the command stays in progress while
its draws are rejected (assumption log 3). -/

namespace Sys2Proof.Machine

/-- `ceil_log2(n)` as hardware computes it: 0 for `n = 1`, otherwise one plus the index of the highest 1 bit of
`n - 1` (R11, R140). -/
def ceilLog2 (n : Nat) : Nat := if n ≤ 1 then 0 else Nat.log2 (n - 1) + 1

/-- `bitlen(n)`, the number of binary digits of `n >= 1` (R11, R140). -/
def bitlen (n : Nat) : Nat := Nat.log2 n + 1

/-- `klen(n)`, the number of bits per draw (R140). -/
def klen (rule : KRule) (n : Nat) : Nat :=
  match rule with
  | .ceilLog2 => ceilLog2 n
  | .bitlen => bitlen n

/-- `uniform_below` as the loop under fuel that R143 asks for (R141): the draw accepted, if one of the `fuel` draws was,
and the state reached. A rejected draw is discarded and STATE keeps its advances. -/
def drawLoop : Nat → Sampling → State → Option Nat × State
  | 0, _, s => (none, s)
  | fuel + 1, p, s =>
    let d := randbits p.k s
    if d.1 < p.n then (some d.1, d.2) else drawLoop fuel p d.2

/-- What one step does of a rejection loop: an accepted draw ends the command with `base + draw` (R141, R142, R144);
when every draw of the step was rejected the command stays in progress (assumption log 3). -/
def runSampling (p : Sampling) (s : State) : State :=
  match drawLoop s.drawBudget p s with
  | (some r, t) => t.respondOk (p.base + r)
  | (none, t) => t.keepSampling p

/-- `base + uniform_below(n)` for `n >= 1`, begun: the draw width is computed once (R141). -/
def startSampling (n : Nat) (base : Int) (s : State) : State := runSampling ⟨n, klen s.params.kRule n, base⟩ s

/-- UBELOW (R142): INVALID_ARGUMENT when A is not positive, before any draw; else `uniform_below(A)`. -/
def execUbelow (s : State) : Host.Outcome State Fault Refusal :=
  .next <|
    if statusUbelow s.opA = .ok then startSampling s.opA.toNat 0 s
    else s.raise (statusUbelow s.opA)

/-- RANGE (R144): INVALID_RANGE when `n = B - A + INC` is not positive, before any draw; else `A + uniform_below(n)`. -/
def execRange (inc : Bool) (s : State) : Host.Outcome State Fault Refusal :=
  .next <|
    if statusRange (rangeSize s.opA s.opB inc) = .ok then
      startSampling (rangeSize s.opA s.opB inc).toNat s.opA s
    else s.raise (statusRange (rangeSize s.opA s.opB inc))

end Sys2Proof.Machine
end

