-- ==== Sys2Proof/Machine/Dispatch.lean ====
section
/-! DEFINITION. The dispatch: one arm per command (30_encoding.md rule R61), each a direct call of its meaning. -/

namespace Sys2Proof.Machine

def exec (i : Instr) (s : State) : Host.Outcome State Fault Refusal :=
  match i with
  | .mix64 => Sys2Proof.Machine.execMix64 s
  | .tseed => Sys2Proof.Machine.execTseed s
  | .reseed sv iv => Sys2Proof.Machine.execReseed sv iv s
  | .setsid => Sys2Proof.Machine.execSetsid s
  | .next64 => Sys2Proof.Machine.execNext64 s
  | .randbits => Sys2Proof.Machine.execRandbits s
  | .ubelow => Sys2Proof.Machine.execUbelow s
  | .range inc => Sys2Proof.Machine.execRange inc s

end Sys2Proof.Machine
end

