-- ==== Sys2Proof/Machine/Control.lean ====
section
/-! DEFINITION. What the core does in one step: the reset input first, then the command in progress, then the command
the host presents (20_memory.md rule R46; 70_reset_and_hazards.md rule R210). -/

namespace Sys2Proof.Machine

/-- The command `c` stands on the command port and `rest` follows it. A word that is no command answers ILLEGAL,
whatever its operands (R68, R69, R187); a command runs. A command whose operands do not fit the ports cannot be
presented and is refused at the boundary (R64; U6; assumption log 9). -/
def takeCommand (c : Command) (rest : List Command) (s : State) : Host.Outcome State Fault Refusal :=
  if c.presentable s.params.opw then
    match decode c.cmd with
    | .ok i => exec i (s.accept c rest)
    | .error _ => .next ((s.accept c rest).raise .illegal)
  else .refused .operandNotPresentable

/-- A step while the reset input is not asserted: the command in progress makes its next draws, or else the
command presented is taken, or else the core is idle (R46, R141, R206). -/
def work (s : State) : Host.Outcome State Fault Refusal :=
  match s.sampling with
  | some p => .next (runSampling p s)
  | none =>
    match s.commands with
    | [] => .next s.idle
    | c :: rest => takeCommand c rest s

/-- One step of the core (R46, R210). A reset asserted during the step abandons whatever command the step works on; where
the step would take none, because the command cannot be presented, it is a reset and nothing else. -/
def cycle (s : State) : Host.Outcome State Fault Refusal :=
  match s.resetInput with
  | .deasserted => work s.tickReset
  | .asserted => .next s.hardReset
  | .assertedDuring m =>
    match work s.tickReset with
    | .next t => .next (s.cutShort t m)
    | .fault _ => .next s.hardReset
    | .refused _ => .next s.hardReset

/-- The host presents `c` as the next command: before the commands it was about to present, with no command in
progress and the reset input not asserted at the next step. -/
def State.present (s : State) (c : Command) : State :=
  { s with
    commands := c :: s.commands
    sampling := none
    resetPort := if s.resetAsserted then .deasserted :: s.resetPort else s.resetPort }

end Sys2Proof.Machine
end

