-- ==== Sys2Proof/Machine/Step.lean ====
section
/-! DEFINITION. The step function and the placing of a command where the next step takes it. -/

namespace Sys2Proof.Machine

/-- One step of the machine: one command, or the next draws of one still in progress (assumption log 3). -/
def step (s : State) : Host.Outcome State Fault Refusal := cycle s

/-- The state in which the command word `w` of `nbits` bits stands on the command port with A = B = 0: the host
presents it next, which is how a program comes to run on this hardware (assumption log 1). -/
def State.withFetchWord (s : State) (nbits w : Nat) : State :=
  s.present ⟨BitVec.ofNat 8 (w % 2 ^ nbits), 0, 0⟩

end Sys2Proof.Machine
end

