-- ==== Sys2Proof/Machine/Assembler.lean ====
section
/-! DEFINITION. The assembler of 30_encoding.md rules R72 and R73: the forms of a line, the command each assembles to,
and the reading of a line of text. The core never sees a line; it sees the commands. -/

namespace Sys2Proof.Machine

/-- The forms of an assembly line (R72) and the two pseudo-instructions (R73). An absent argument of `reseed` is one
the line leaves out or writes as `-`. -/
inductive AsmLine where
  | mix64 (x : Int)
  | tseed
  | reseed (seed sid : Option Int)
  | setsid (i : Int)
  | next64
  | randbits (k : Int)
  | ubelow (n : Int)
  | rangeX (a b : Int)
  | rangeI (a b : Int)
  /-- `.word c, a, b`: any 8-bit word, legal or not. -/
  | word (c : CmdWord) (a b : Int)
  /-- The pseudo-instruction `RANGE a, b`. -/
  | range (a b : Int)
  /-- The pseudo-instruction `RAND64`. -/
  | rand64
  deriving DecidableEq, Repr

/-- Why a line is refused. -/
inductive AsmError where
  /-- No mnemonic, or a form with this number of operands, of R72 or R73. -/
  | unknownForm
  /-- An operand is not an integer literal of R72. -/
  | badLiteral
  /-- An operand does not fit `OPW` bits, or the word of `.word` does not fit 8 bits (R72). -/
  | tooWide
  deriving DecidableEq, Repr

/-- The expansion of the pseudo-instructions (R73); every other form stands for itself. -/
def AsmLine.expand : AsmLine → AsmLine
  | .range a b => .rangeI a b
  | .rand64 => .randbits 64
  | l => l

/-- The command of a form (the table of R72); operands a command does not use are 0. -/
def AsmLine.command (l : AsmLine) : Command :=
  match l.expand with
  | .mix64 x => ⟨0x10, x, 0⟩
  | .tseed => ⟨0x20, 0, 0⟩
  | .reseed none none => ⟨0x30, 0, 0⟩
  | .reseed (some s) none => ⟨0x31, s, 0⟩
  | .reseed none (some i) => ⟨0x32, 0, i⟩
  | .reseed (some s) (some i) => ⟨0x33, s, i⟩
  | .setsid i => ⟨0x40, i, 0⟩
  | .next64 => ⟨0x50, 0, 0⟩
  | .randbits k => ⟨0x60, k, 0⟩
  | .ubelow n => ⟨0x70, n, 0⟩
  | .rangeX a b => ⟨0x80, a, b⟩
  | .rangeI a b => ⟨0x81, a, b⟩
  | .word c a b => ⟨c, a, b⟩
  | .range a b => ⟨0x81, a, b⟩
  | .rand64 => ⟨0x60, 64, 0⟩

/-- The assembler on a form: it refuses an operand outside the port's range (R72). -/
def assemble (w : OperandWidth) (l : AsmLine) : Except AsmError Command :=
  if l.command.presentable w then .ok l.command else .error .tooWide

/-- White space between the parts of a line (assumption log 12). -/
def isBlank (c : Char) : Bool := c == ' ' || c == '\t'

/-- A text without the white space at its ends. -/
def trimBlanks (t : List Char) : List Char := ((t.dropWhile isBlank).reverse.dropWhile isBlank).reverse

/-- The parts of a text between separators. -/
def splitOnChar (sep : Char) : List Char → List (List Char)
  | [] => [[]]
  | c :: t =>
    if c = sep then [] :: splitOnChar sep t
    else
      match splitOnChar sep t with
      | [] => [[c]]
      | p :: ps => (c :: p) :: ps

/-- The value of a decimal digit. -/
def decimalDigit (c : Char) : Option Nat :=
  if 48 ≤ c.toNat ∧ c.toNat ≤ 57 then some (c.toNat - 48) else none

/-- The value of a hexadecimal digit, in capital or small letters (assumption log 12). -/
def hexDigit (c : Char) : Option Nat :=
  if 65 ≤ c.toNat ∧ c.toNat ≤ 70 then some (c.toNat - 55)
  else if 97 ≤ c.toNat ∧ c.toNat ≤ 102 then some (c.toNat - 87)
  else decimalDigit c

/-- The number a text of digits writes, after the digits already read as `acc`. -/
def digitsValue (base : Nat) (digit : Char → Option Nat) : List Char → Nat → Option Nat
  | [], acc => some acc
  | c :: t, acc =>
    match digit c with
    | some d => digitsValue base digit t (acc * base + d)
    | none => none

/-- The number a nonempty text of digits writes. -/
def number (base : Nat) (digit : Char → Option Nat) (t : List Char) : Option Nat :=
  if t.isEmpty then none else digitsValue base digit t 0

/-- An integer literal: decimal with an optional leading `-`, or hexadecimal with `0x` (R72). -/
def literal (t : List Char) : Option Int :=
  match t with
  | '-' :: u => (number 10 decimalDigit u).map fun n => -(n : Int)
  | '0' :: 'x' :: u => (number 16 hexDigit u).map fun n => (n : Int)
  | u => (number 10 decimalDigit u).map fun n => (n : Int)

/-- The literals of a list of operands. -/
def literals : List (List Char) → Option (List Int)
  | [] => some []
  | t :: ts =>
    match literal t, literals ts with
    | some v, some vs => some (v :: vs)
    | _, _ => none

/-- The form of a mnemonic and its integer operands (R72, R73). -/
def formOf (mnemonic : List Char) (ops : List Int) : Except AsmError AsmLine :=
  match ops with
  | [] =>
    if mnemonic = "TSEED".toList then .ok .tseed
    else if mnemonic = "RESEED".toList then .ok (.reseed none none)
    else if mnemonic = "NEXT64".toList then .ok .next64
    else if mnemonic = "RAND64".toList then .ok .rand64
    else .error .unknownForm
  | [x] =>
    if mnemonic = "MIX64".toList then .ok (.mix64 x)
    else if mnemonic = "RESEED".toList then .ok (.reseed (some x) none)
    else if mnemonic = "SETSID".toList then .ok (.setsid x)
    else if mnemonic = "RANDBITS".toList then .ok (.randbits x)
    else if mnemonic = "UBELOW".toList then .ok (.ubelow x)
    else .error .unknownForm
  | [a, b] =>
    if mnemonic = "RESEED".toList then .ok (.reseed (some a) (some b))
    else if mnemonic = "RANGE.X".toList then .ok (.rangeX a b)
    else if mnemonic = "RANGE.I".toList then .ok (.rangeI a b)
    else if mnemonic = "RANGE".toList then .ok (.range a b)
    else .error .unknownForm
  | [c, a, b] =>
    if mnemonic = ".word".toList then
      if 0 ≤ c ∧ c < 256 then .ok (.word (BitVec.ofInt 8 c) a b) else .error .tooWide
    else .error .unknownForm
  | _ => .error .unknownForm

/-- A line's form from its mnemonic and the texts of its operands: `RESEED -, i` leaves the seed out (R72). -/
def formOfTexts (mnemonic : List Char) (ops : List (List Char)) : Except AsmError AsmLine :=
  match decide (mnemonic = "RESEED".toList), ops with
  | true, [['-'], sid] =>
    match literal sid with
    | some i => .ok (.reseed none (some i))
    | none => .error .badLiteral
  | _, _ =>
    match literals ops with
    | some vs => formOf mnemonic vs
    | none => .error .badLiteral

/-- One line of text: a `;` starts a comment, a mnemonic, operands separated by commas (R72). A line with nothing but
white space and a comment holds no command. -/
def parseLine (t : List Char) : Except AsmError (Option AsmLine) :=
  let body := trimBlanks (t.takeWhile (fun c => c != ';'))
  if body.isEmpty then .ok none
  else
    let mnemonic := body.takeWhile (fun c => !isBlank c)
    let rest := trimBlanks (body.dropWhile (fun c => !isBlank c))
    let ops := if rest.isEmpty then [] else (splitOnChar ',' rest).map trimBlanks
    (formOfTexts mnemonic ops).map some

/-- The commands of the lines of a program, in order; the first line refused refuses the program. -/
def assembleProgram (w : OperandWidth) : List (List Char) → Except AsmError (List Command)
  | [] => .ok []
  | t :: ts =>
    match parseLine t with
    | .error e => .error e
    | .ok none => assembleProgram w ts
    | .ok (some l) =>
      match assemble w l, assembleProgram w ts with
      | .ok c, .ok cs => .ok (c :: cs)
      | .error e, _ => .error e
      | .ok _, .error e => .error e

end Sys2Proof.Machine
end

