-- ==== Sys2Proof/Machine/HostCall.lean ====
section
/-! DEFINITION. The host software around the core (44_host_decimal_mode.md; 30_encoding.md rule R73): the library calls
of the source as commands, mode selection, decimal mode on scaled integers, and what a response means to the caller.
Nothing here is hardware: no step of the machine calls it (00_scope.md rule R4). -/

namespace Sys2Proof.Machine

/-- A bound of `time_based_random` (R160): an integer, or a decimal-formatted text. A floating value arrives as its
default textual form, which is the host language's own (R162; U17). -/
inductive Bound where
  | int (v : Int)
  | text (t : List Char)
  deriving DecidableEq, Repr

/-- A library call of the source (R73, R160, R161). -/
inductive ApiCall where
  | reseed (seed sid : Option Int)
  | setStreamId (i : Int)
  | randbits (k : Int)
  | timeBasedRandom (min max : Bound) (inclusive : Bool) (precision : Option Int)
  deriving DecidableEq, Repr

/-- What the source leaves undefined in the host layer: the model refuses these calls by name. -/
inductive HostRefusal where
  /-- A bound text outside optional sign, digits, optional fraction (R169; U17). -/
  | malformedText
  /-- A negative explicit precision (R163; U18). -/
  | negativePrecision
  /-- A precision given together with two integer bounds (R160; U19). -/
  | precisionInIntegerMode
  deriving DecidableEq, Repr

/-- What the host does for a call: the one line it issues, and in decimal mode the precision of the result. -/
structure HostPlan where
  line : AsmLine
  digits : Option Nat
  deriving DecidableEq, Repr

/-- A decimal-formatted text taken apart (R164): the sign, the digits before the point, the digits after it. -/
structure DecimalText where
  negative : Bool
  whole : List Char
  frac : List Char
  deriving DecidableEq, Repr

/-- The sign and the rest of a text: "a leading + or - is removed" (R164). -/
def splitSign (t : List Char) : Bool × List Char :=
  match t with
  | '-' :: u => (true, u)
  | '+' :: u => (false, u)
  | u => (false, u)

/-- Reads a decimal-formatted text (R160, R164): digits only around at most one point, and some digit. -/
def readDecimal (t : List Char) : Option DecimalText :=
  let sign := (splitSign t).1
  let check (w f : List Char) : Option DecimalText :=
    if (w ++ f).all (fun c => (decimalDigit c).isSome) && !(w ++ f).isEmpty then some ⟨sign, w, f⟩ else none
  match splitOnChar '.' (splitSign t).2 with
  | [w] => check w []
  | [w, f] => check w f
  | _ => none

/-- The fraction digits cut or padded to exactly `p` digits, zeros appended (R164; 90_conflicts.md C8). -/
def fitFraction (p : Nat) (f : List Char) : List Char := f.take p ++ List.replicate (p - f.length) '0'

/-- The value of digits, 0 for none (R164). -/
def digitsOrZero (t : List Char) : Nat := (digitsValue 10 decimalDigit t 0).getD 0

/-- `to_scaled`: `sign * (whole * 10^p + frac)` (R163, R164). -/
def DecimalText.scaled (d : DecimalText) (p : Nat) : Int :=
  let v := (digitsOrZero d.whole * 10 ^ p + digitsOrZero (fitFraction p d.frac) : Nat)
  if d.negative then -(v : Int) else v

/-- The number of decimal digits in a bound's textual form, 0 when it has no point (R162); the textual form of an
integer has none (assumption log 11). -/
def Bound.places : Bound → Option Nat
  | .int _ => some 0
  | .text t => (readDecimal t).map fun d => d.frac.length

/-- A bound as a scaled integer (R164); an integer is its own whole part. -/
def Bound.scaled (p : Nat) : Bound → Option Int
  | .int v => some (v * ((10 ^ p : Nat) : Int))
  | .text t => (readDecimal t).map fun d => d.scaled p

/-- The precision of a decimal call: the explicit one, else the larger number of digits of the bounds (R162). -/
def precisionOf (explicit : Option Int) (a b : Nat) : Except HostRefusal Nat :=
  match explicit with
  | none => .ok (max a b)
  | some p => if p < 0 then .error .negativePrecision else .ok p.toNat

/-- The RANGE form of a flag `inclusive` (R73, R166). -/
def rangeLine (inclusive : Bool) (a b : Int) : AsmLine := if inclusive then .rangeI a b else .rangeX a b

/-- Decimal mode (R162 to R166): one RANGE command on the scaled integers. -/
def decimalPlan (min max : Bound) (inclusive : Bool) (precision : Option Int) : Except HostRefusal HostPlan :=
  match min.places, max.places with
  | some m, some n =>
    match precisionOf precision m n with
    | .error e => .error e
    | .ok p =>
      match min.scaled p, max.scaled p with
      | some a, some b => .ok ⟨rangeLine inclusive a b, some p⟩
      | _, _ => .error .malformedText
  | _, _ => .error .malformedText

/-- The plan of a library call (R73, R160, R166): integer mode when both bounds are integers, decimal mode otherwise. -/
def ApiCall.plan : ApiCall → Except HostRefusal HostPlan
  | .reseed seed sid => .ok ⟨.reseed seed sid, none⟩
  | .setStreamId i => .ok ⟨.setsid i, none⟩
  | .randbits k => .ok ⟨.randbits k, none⟩
  | .timeBasedRandom (.int a) (.int b) inclusive precision =>
    if precision = none then .ok ⟨rangeLine inclusive a b, none⟩ else .error .precisionInIntegerMode
  | .timeBasedRandom min max inclusive precision => decimalPlan min max inclusive precision

/-- `time_based_random` with its defaults, inclusive and no precision (R161). -/
def timeBasedRandom (min max : Bound) (inclusive : Bool := true) (precision : Option Int := none) : ApiCall :=
  .timeBasedRandom min max inclusive precision

/-- What the caller gets: an integer, a decimal `scaled / 10^digits` with its declared precision (R167), nothing
(SETSID), or the core's error passed on unchanged (R165, R169). -/
inductive HostValue where
  | integer (v : Int)
  | decimal (scaled : Int) (digits : Nat)
  | void
  | failed (status : Status)
  deriving DecidableEq, Repr

/-- The value of a call from the plan and the core's response (R161, R167, R169). -/
def HostPlan.value (p : HostPlan) (r : Response) : HostValue :=
  if r.status = .ok then
    match r.result, p.digits with
    | none, _ => .void
    | some v, none => .integer v
    | some v, some d => .decimal v d
  else .failed r.status

end Sys2Proof.Machine
end

