-- ==== Sys2Proof/Safety.lean ====
section
/-! DEFINITION. The terms the statements use for a run: several steps, and the invariant of the machine, which says
that what stands on the result port fits it (30_encoding.md rules R65, R67) and that a command in progress is one the
range sampler began (43_range_sampler.md rules R141, R144). -/

namespace Sys2Proof.Machine

/-- `k` steps, stopping at a refusal. -/
def steps : Nat → State → Host.Outcome State Fault Refusal
  | 0, s => .next s
  | k + 1, s =>
    match step s with
    | .next t => steps k t
    | .fault r => .fault r
    | .refused r => .refused r

/-- A response the port can carry: a result only with status OK (R65), and one that fits `OPW` bits (R67). -/
abbrev Response.legal (w : OperandWidth) (r : Response) : Prop :=
  (r.result.isSome = true → r.status = .ok) ∧ ∀ v ∈ r.result, w.fits v = true

/-- A command in progress as UBELOW or RANGE begins it: a positive bound, the draw width of R140, and ends of the
range that fit `OPW` bits (R142, R144). -/
abbrev Sampling.legal (ps : Params) (p : Sampling) : Prop :=
  1 ≤ p.n ∧ p.k = klen ps.kRule p.n ∧ ps.opw.fits p.base = true ∧ ps.opw.fits (p.base + p.n - 1) = true

/-- The invariant of the machine: legal parameters (R5), a legal response, and while a command is in progress a legal
one with no response yet (R41, R46). -/
abbrev CoreInv (s : State) : Prop :=
  s.params.wf = true ∧ (∀ r ∈ s.response, r.legal s.params.opw) ∧
    ∀ p ∈ s.sampling, p.legal s.params ∧ s.response = none

/-- The reading the next clock sample returns: the one the time port lists, else that sample's free value (R49). -/
def State.reading (s : State) : ClockReading := s.timePort.headD (Config.clockReading s.clockSamples)

/-- The state after one word. -/
def nextWord (s : State) : State := (nextU64 s).2

/-- How many of the next `m` words start from the sentinel, each with a lazy seed and its clock sample (R122, R128). -/
def lazySeeds (m : Nat) (s : State) : Nat :=
  (List.range m).countP fun j => (nextWord^[j] s).stateReg == 0#64

/-- A step from `s` makes exactly `d` draws of the loop `p`: none of the first `d - 1` is accepted, and the step stops at
the `d`-th because it is accepted or because the step makes no more (R141; `drawBudget`: assumption log 3). -/
abbrev drawsMade (d : Nat) (p : Sampling) (s : State) : Prop :=
  d ≤ s.drawBudget ∧ (∀ e, e < d → (drawLoop e p s).1 = none) ∧ (d = s.drawBudget ∨ (drawLoop d p s).1 ≠ none)

/-- The host presents `c` now and `rest` after it: the reset input is not asserted and no command is in progress. -/
abbrev State.Presents (s : State) (c : Command) (rest : List Command) : Prop :=
  s.resetAsserted = false ∧ s.sampling = none ∧ s.commands = c :: rest

end Sys2Proof.Machine
end

