-- ==== Sys2Proof/Certificates/Slice0/Obligations.lean ====
section
/-! DEFINITION. The statements about RNDM CORE for the provers. Each docstring names the rules of spec/ it rests on.
The spec gives the core no memory and no flags (R25, R40), so a frame speaks of the registers, the response, the
command in progress, the ports and the parameters, which are all the fields of the state. -/

open Sys2Proof Sys2Proof.Machine

/-! ## Reset and the step -/

/-- R211: the values after reset of everything the spec gives one. -/
def Obligations.ResetValues : Prop :=
  State.reset.stateReg = 0x0000000000000000#64 ∧ State.reset.streamReg = 0x0000000000000000#64 ∧
    State.reset.sampling = none ∧ State.reset.response = none

/-- R210: an asserted reset input ends any command in progress without a response and leaves the reset state, and nothing
but a response or a reset ends a command in progress. Asserted while the core works on a command, any command, it leaves
what the same step without the reset leaves, but for the reset state, the missing response, and the clock samples, which
may be fewer. A reset takes the core from any state to its reset state, whatever the host presents. What the inputs of the
host hold after a reset, and how often a command cut short has sampled the clock, are the model's: assumption log 6. -/
def Obligations.ResetAbandonsTheCommand : Prop :=
  (∀ (s : State) (later : List ResetInput), s.resetPort = .asserted :: later →
    step s = .next { s with stateReg := 0#64, streamReg := 0#64, sampling := none, response := none, resetPort := later }) ∧
  (∀ (s : State) (m : Nat) (later : List ResetInput), s.resetPort = .assertedDuring m :: later →
    (∀ t, step { s with resetPort := .deasserted :: later } = .next t →
      let k := min m (t.clockSamples - s.clockSamples)
      step s = .next { t with
        stateReg := 0#64, streamReg := 0#64, sampling := none, response := none
        timePort := s.timePort.drop k, clockSamples := s.clockSamples + k }) ∧
    ∀ r, step { s with resetPort := .deasserted :: later } = .refused r →
      step s = .next { s with
        stateReg := 0#64, streamReg := 0#64, sampling := none, response := none, resetPort := later }) ∧
  (∀ s : State, s.resetAsserted = true →
    ∃ t, step s = .next t ∧ t.stateReg = 0#64 ∧ t.streamReg = 0#64 ∧ t.sampling = none ∧ t.response = none) ∧
  ∀ (s t : State) (p : Sampling), s.sampling = some p → step s = .next t →
    s.resetAsserted = true ∨ (t.sampling = some p ∧ t.response = none) ∨
      (t.sampling = none ∧ ∃ v, t.response = some ⟨.ok, some v⟩)

/-- R46, R60: a legal command presented to a core that is not reset and has none in progress runs on its operands.
The step takes it from the port and consumes one entry of the reset input. -/
def Obligations.StepRunsThePresentedCommand : Prop :=
  ∀ (s : State) (c : Command) (rest : List Command) (i : Instr),
    s.Presents c rest → c.presentable s.params.opw = true → decode c.cmd = .ok i →
    step s = exec i { s with
      commands := rest, opA := c.a, opB := c.b, response := none, resetPort := s.resetPort.tail }

/-- R68, R69, R70: a word that is none of the twelve legal words answers ILLEGAL without a result, writes no register
and does not sample the clock, whatever its operands. The model's choices: the response rather than a refusal by the
decoder (assumption log 8), the ports as fields of State (log 1, 2, 6), and operands that the ports carry (log 9). -/
def Obligations.ReservedWordsAnswerIllegal : Prop :=
  ∀ (s : State) (c : Command) (rest : List Command),
    s.Presents c rest → c.presentable s.params.opw = true →
    c.cmd ∉ [0x10#8, 0x20#8, 0x30#8, 0x31#8, 0x32#8, 0x33#8, 0x40#8, 0x50#8, 0x60#8, 0x70#8, 0x80#8, 0x81#8] →
    step s = .next { s with
      commands := rest, opA := c.a, opB := c.b, response := some ⟨.illegal, none⟩, resetPort := s.resetPort.tail }

/-- R206: with no command the core keeps STATE and STREAM. That such a step is a next state and that the response
port is empty after it is the model's choice: assumption log 4 and 10. -/
def Obligations.IdleCoreKeepsItsRegisters : Prop :=
  ∀ s : State, s.resetAsserted = false → s.sampling = none → s.commands = [] →
    step s = .next { s with response := none, resetPort := s.resetPort.tail }

/-- R64, R72: which integers a port carries, and that a command with any other operand is refused at the boundary
(the refusal is the model's form of "cannot be presented": assumption log 9). -/
def Obligations.OversizeOperandsAreRefused : Prop :=
  (∀ (n : Nat) (v : Int), (OperandWidth.bits n).fits v = true ↔ -(2 : Int) ^ (n - 1) ≤ v ∧ v ≤ (2 : Int) ^ (n - 1) - 1) ∧
  (∀ v : Int, OperandWidth.inf.fits v = true) ∧
  ∀ (s : State) (c : Command) (rest : List Command), s.Presents c rest →
    ¬(s.params.opw.fits c.a = true ∧ s.params.opw.fits c.b = true) → step s = .refused .operandNotPresentable

/-- R180, R188, R189: a step answers a next state; the one exception is an operand that cannot be presented. -/
def Obligations.StepAnswersUnlessRefused : Prop :=
  ∀ s : State, (∃ t, step s = .next t) ∨
    (step s = .refused .operandNotPresentable ∧
      ∃ c rest, s.Presents c rest ∧ c.presentable s.params.opw = false)

/-- R5, R65, R67, R142, R144: every step keeps the invariant: legal parameters, a result only with OK and one that fits
the result port, and a command in progress that is one the sampler began, with no response yet. -/
def Obligations.EveryStepKeepsTheInvariant : Prop :=
  ∀ s t : State, CoreInv s → step s = .next t → CoreInv t

/-- The invariant holds after reset; the parameters after reset are the model's: assumption log 7. -/
def Obligations.InvariantHoldsAtReset : Prop := CoreInv State.reset

/-! ## Encoding -/

/-- R61, R62: the words that decode are the twelve legal words, each to its command and flags. -/
def Obligations.LegalWordsDecode : Prop :=
  decode 0x10#8 = .ok .mix64 ∧ decode 0x20#8 = .ok .tseed ∧
    decode 0x30#8 = .ok (.reseed false false) ∧ decode 0x31#8 = .ok (.reseed true false) ∧
    decode 0x32#8 = .ok (.reseed false true) ∧ decode 0x33#8 = .ok (.reseed true true) ∧
    decode 0x40#8 = .ok .setsid ∧ decode 0x50#8 = .ok .next64 ∧ decode 0x60#8 = .ok .randbits ∧
    decode 0x70#8 = .ok .ubelow ∧ decode 0x80#8 = .ok (.range false) ∧ decode 0x81#8 = .ok (.range true)

/-- R60 to R62: decoding and encoding are inverse to each other; no bit of a word is dropped. -/
def Obligations.DecodeAndEncodeAgree : Prop :=
  ∀ (w : CmdWord) (i : Instr), decode w = .ok i ↔ encode i = w

/-- R68, R69, R187: the two errors of the decoder, the reserved opcode first. -/
def Obligations.DecoderRejectsByName : Prop :=
  ∀ w : CmdWord,
    (decode w = .error .reservedOpcode ↔ w.toNat / 16 = 0 ∨ 9 ≤ w.toNat / 16) ∧
    (decode w = .error .reservedFlag ↔
      1 ≤ w.toNat / 16 ∧ w.toNat / 16 ≤ 8 ∧
        (if w.toNat / 16 = 3 then w.toNat % 16 / 4 ≠ 0
         else if w.toNat / 16 = 8 then w.toNat % 16 / 2 ≠ 0 else w.toNat % 16 ≠ 0))

/-- R41, R64: the integers of a port of `n` bits are those its bits give back. -/
def Obligations.PortBitsCarryTheInteger : Prop :=
  ∀ (n : Nat) (v : Int), 1 ≤ n → ((OperandWidth.bits n).fits v = true ↔ portValue n (portBits n v) = v)

/-! ## The mixer -/

/-- R90, R91: the three rounds, written out. -/
def Obligations.MixerRounds : Prop :=
  ∀ x : Word,
    let a := x ^^^ (x >>> 30)
    let b := a * 0xBF58476D1CE4E5B9#64
    let c := b ^^^ (b >>> 27)
    let d := c * 0x94D049BB133111EB#64
    let e := d ^^^ (d >>> 31)
    mix64 x = e

/-- R92: the mixer is a bijection of the words, maps 0 to 0 and nothing else to 0. -/
def Obligations.MixerIsBijective : Prop :=
  Function.Bijective mix64 ∧ mix64 0#64 = 0#64 ∧ ∀ x : Word, mix64 x = 0#64 → x = 0#64

/-- R93: MIX64. -/
def Obligations.Mix64Command : Prop :=
  (∀ fl : BitVec 4, decode (0x1#4 ++ fl) = if fl = 0 then .ok .mix64 else .error .reservedFlag) ∧
  (∀ s : State, exec .mix64 s =
    .next { s with
      response := some ⟨.ok, some ((mix64 (BitVec.ofInt 64 s.opA)).toNat : Int)⟩, sampling := none }) ∧
  mix64 1#64 = 0x5692161D100B05E5#64

/-! ## Seeding -/

/-- R49, R100: the time encoding is the exact weighted sum of any reading, which never reaches `2^64`; the example. -/
def Obligations.TimeCodeIsTheExactSum : Prop :=
  timeCode ⟨2026, 11, 10, 14, 22, 5, 123⟩ = 20261110142205123 ∧
  ∀ r : ClockReading,
    timeCode r = r.year.toNat * 10000000000000 + r.month.toNat * 100000000000 + r.day.toNat * 1000000000
        + r.hour.toNat * 10000000 + r.minute.toNat * 100000 + r.second.toNat * 1000 + r.msec.toNat ∧
      timeCode r ≤ 163831531316364023 ∧
      (BitVec.ofNat 64 (timeCode r)).toNat = timeCode r

/-- R101, R102: TSEED mixes the time code of exactly one clock sample and touches no register. -/
def Obligations.TseedCommand : Prop :=
  (∀ fl : BitVec 4, decode (0x2#4 ++ fl) = if fl = 0 then .ok .tseed else .error .reservedFlag) ∧
  mix64 20261110142205123#64 = 0x73CCE90DD0CDBCA0#64 ∧ mix64 0#64 = 0#64 ∧
  ∀ s : State, exec .tseed s =
    .next { s with
      response := some ⟨.ok, some ((mix64 (BitVec.ofNat 64 (timeCode s.reading))).toNat : Int)⟩
      sampling := none
      timePort := s.timePort.tail
      clockSamples := s.clockSamples + 1 }

/-- R103, R104, R106, R107: RESEED, with the seed from A or from one clock sample, the identifier from B or STREAM kept;
the identifier is stored before it is mixed in, 0 is remapped to 1, and the result is the new STATE. -/
def Obligations.ReseedCommand : Prop :=
  (∀ fl : BitVec 4, decode (0x3#4 ++ fl) =
    if fl.getLsbD 2 || fl.getLsbD 3 then .error .reservedFlag
    else .ok (.reseed (fl.getLsbD 0) (fl.getLsbD 1))) ∧
  mix64 (mix64 12345#64 ^^^ mix64 1#64) = 0x283C0E7D791D0A5D#64 ∧
  (∀ (s : State) (iv : Bool),
    let sid := if iv then BitVec.ofInt 64 s.opB else s.streamReg
    let combined := mix64 (mix64 (BitVec.ofInt 64 s.opA) ^^^ mix64 sid)
    let new := if combined = 0#64 then 1#64 else combined
    exec (.reseed true iv) s =
      .next { s with
        streamReg := sid, stateReg := new, response := some ⟨.ok, some (new.toNat : Int)⟩, sampling := none }) ∧
  ∀ (s : State) (iv : Bool),
    let sid := if iv then BitVec.ofInt 64 s.opB else s.streamReg
    let combined := mix64 (mix64 (BitVec.ofNat 64 (timeCode s.reading)) ^^^ mix64 sid)
    let new := if combined = 0#64 then 1#64 else combined
    exec (.reseed false iv) s =
      .next { s with
        streamReg := sid, stateReg := new, response := some ⟨.ok, some (new.toNat : Int)⟩, sampling := none
        timePort := s.timePort.tail, clockSamples := s.clockSamples + 1 }

/-- R105, R107: SETSID stores the identifier, then reseeds from one clock sample, and returns nothing. -/
def Obligations.SetsidCommand : Prop :=
  (∀ fl : BitVec 4, decode (0x4#4 ++ fl) = if fl = 0 then .ok .setsid else .error .reservedFlag) ∧
  mix64 (0x73CCE90DD0CDBCA0#64 ^^^ mix64 7#64) = 0xD7CD72FCBFFFE2F8#64 ∧
  ∀ s : State,
    let combined :=
      mix64 (mix64 (BitVec.ofNat 64 (timeCode s.reading)) ^^^ mix64 (BitVec.ofInt 64 s.opA))
    exec .setsid s =
      .next { s with
        streamReg := BitVec.ofInt 64 s.opA
        stateReg := if combined = 0#64 then 1#64 else combined
        response := some ⟨.ok, none⟩, sampling := none
        timePort := s.timePort.tail, clockSamples := s.clockSamples + 1 }

/-- R109: a seeding never leaves the sentinel; with an explicit seed the remap happens exactly when the reduced seed
is the stream identifier, and then STATE is 1. -/
def Obligations.SeedingRemapsZero : Prop :=
  (∀ (seed sid : Option Word) (s : State),
    (reseedProc seed sid s).2.stateReg ≠ 0#64 ∧ (reseedProc seed sid s).1 = (reseedProc seed sid s).2.stateReg) ∧
  (∀ x i : Word, mix64 (mix64 x ^^^ mix64 i) = 0#64 ↔ x = i) ∧
  ∀ (s : State) (iv : Bool),
    BitVec.ofInt 64 s.opA = (if iv then BitVec.ofInt 64 s.opB else s.streamReg) →
    ∃ t, exec (.reseed true iv) s = .next t ∧ t.stateReg = 1#64 ∧ t.response = some ⟨.ok, some 1⟩

/-- R110, the part that follows from the rules: with one explicit seed two different identifiers, each from operand B or
from STREAM, leave different states, but for the zero remap, where the seed is one of the identifiers and both states
are 1. The second clause is R110's own sequence, SETSID `i` and then RESEED `x`. -/
def Obligations.StreamsWithOneSeedDiffer : Prop :=
  (∀ (s u t v : State) (iv jv : Bool),
    let i := if iv then BitVec.ofInt 64 s.opB else s.streamReg
    let j := if jv then BitVec.ofInt 64 u.opB else u.streamReg
    exec (.reseed true iv) s = .next t → exec (.reseed true jv) u = .next v →
    BitVec.ofInt 64 s.opA = BitVec.ofInt 64 u.opA → i ≠ j → t.stateReg = v.stateReg →
      t.stateReg = 1#64 ∧ (BitVec.ofInt 64 s.opA = i ∨ BitVec.ofInt 64 s.opA = j)) ∧
  ∀ (s u s' u' t v : State) (x i j : Int),
    exec .setsid { s with opA := i } = .next s' → exec (.reseed true false) { s' with opA := x } = .next t →
    exec .setsid { u with opA := j } = .next u' → exec (.reseed true false) { u' with opA := x } = .next v →
    BitVec.ofInt 64 i ≠ BitVec.ofInt 64 j → t.stateReg = v.stateReg →
      t.stateReg = 1#64 ∧ (BitVec.ofInt 64 x = BitVec.ofInt 64 i ∨ BitVec.ofInt 64 x = BitVec.ofInt 64 j)

/-- R108: two time-based seedings with one reading and one identifier write one STATE: two RESEEDs, a SETSID and a
RESEED with the same identifier, two lazy seeds. -/
def Obligations.SameReadingSeedingsCollide : Prop :=
  ∀ s u : State, s.reading = u.reading →
    (s.streamReg = u.streamReg →
      ∃ t v, exec (.reseed false false) s = .next t ∧ exec (.reseed false false) u = .next v ∧
        t.stateReg = v.stateReg) ∧
    (BitVec.ofInt 64 s.opA = BitVec.ofInt 64 u.opB →
      ∃ t v, exec .setsid s = .next t ∧ exec (.reseed false true) u = .next v ∧
        t.stateReg = v.stateReg ∧ t.streamReg = v.streamReg) ∧
    (s.streamReg = u.streamReg → s.stateReg = 0#64 → u.stateReg = 0#64 →
      ∃ t v, exec .next64 s = .next t ∧ exec .next64 u = .next v ∧
        t.stateReg = v.stateReg ∧ t.response = v.response)

/-- R104, corner cases: with an explicit seed neither the earlier STATE nor the clock is an input. -/
def Obligations.ExplicitSeedForgetsThePast : Prop :=
  ∀ (s u : State) (iv : Bool), s.opA = u.opA → (if iv then s.opB = u.opB else s.streamReg = u.streamReg) →
    ∃ t v, exec (.reseed true iv) s = .next t ∧ exec (.reseed true iv) u = .next v ∧
      t.stateReg = v.stateReg ∧ t.streamReg = v.streamReg ∧ t.response = v.response ∧
      t.timePort = s.timePort ∧ t.clockSamples = s.clockSamples

/-! ## The bit engine -/

/-- R121, R122, R123: NEXT64 from an initialised STATE, and from the sentinel, where it seeds first from one clock
sample and the current STREAM. -/
def Obligations.Next64Command : Prop :=
  (∀ fl : BitVec 4, decode (0x5#4 ++ fl) = if fl = 0 then .ok .next64 else .error .reservedFlag) ∧
  mix64 (1#64 + 0x9E3779B97F4A7C15#64) = 0x910A2DEC89025CC1#64 ∧
  (∀ s : State, s.stateReg ≠ 0#64 →
    let new := s.stateReg + 0x9E3779B97F4A7C15#64
    exec .next64 s =
      .next { s with stateReg := new, response := some ⟨.ok, some ((mix64 new).toNat : Int)⟩, sampling := none }) ∧
  ∀ s : State, s.stateReg = 0#64 →
    let combined := mix64 (mix64 (BitVec.ofNat 64 (timeCode s.reading)) ^^^ mix64 s.streamReg)
    let new := (if combined = 0#64 then 1#64 else combined) + 0x9E3779B97F4A7C15#64
    exec .next64 s =
      .next { s with
        stateReg := new, response := some ⟨.ok, some ((mix64 new).toNat : Int)⟩, sampling := none
        timePort := s.timePort.tail, clockSamples := s.clockSamples + 1 }

/-- R128, R30: from `2^64 - GAMMA` an advance writes the sentinel and the word is 0; in the same command the next word
is drawn after a lazy seed (a request of 128 bits: the first word gives the zero high half). -/
def Obligations.AdvanceCanReachTheSentinel : Prop :=
  ∀ s : State, s.stateReg = 0x61C8864680B583EB#64 →
    exec .next64 s = .next { s with stateReg := 0#64, response := some ⟨.ok, some 0⟩, sampling := none } ∧
    (s.opA = 128 → s.params.opw.overCapacity 128 = false →
      let combined := mix64 (mix64 (BitVec.ofNat 64 (timeCode s.reading)) ^^^ mix64 s.streamReg)
      let new := (if combined = 0#64 then 1#64 else combined) + 0x9E3779B97F4A7C15#64
      exec .randbits s =
        .next { s with
          stateReg := new, response := some ⟨.ok, some ((mix64 new).toNat : Int)⟩, sampling := none
          timePort := s.timePort.tail, clockSamples := s.clockSamples + 1 })

/-- R120, R121: GAMMA is odd, so repeated advances come back to a STATE after `2^64` of them and not before. -/
def Obligations.AdvancesVisitAllStates : Prop :=
  ∀ (s : State) (j : Nat), (advance^[j] s).stateReg = s.stateReg ↔ 2 ^ 64 ∣ j

/-- R125, R180: when RANDBITS fails, and with which status; the state is as before. -/
def Obligations.RandbitsErrors : Prop :=
  (∀ s : State, s.opA < 0 →
    exec .randbits s = .next { s with response := some ⟨.invalidArgument, none⟩, sampling := none }) ∧
  ∀ (s : State) (n : Nat), s.params.opw = .bits n → ((n - 1 : Nat) : Int) < s.opA →
    exec .randbits s = .next { s with response := some ⟨.capacity, none⟩, sampling := none }

/-- R126: RANDBITS 0 draws nothing, not even a lazy seed. -/
def Obligations.RandbitsZeroDrawsNothing : Prop :=
  ∀ s : State, s.opA = 0 →
    exec .randbits s = .next { s with response := some ⟨.ok, some 0⟩, sampling := none }

/-- R124, R125: a bit count that is neither negative nor over KMAX completes, and the result is below `2^k`. -/
def Obligations.RandbitsCompletesBelowTwoPow : Prop :=
  (∀ fl : BitVec 4, decode (0x6#4 ++ fl) = if fl = 0 then .ok .randbits else .error .reservedFlag) ∧
  ∀ s : State, 0 ≤ s.opA → (∀ n, s.params.opw = .bits n → s.opA ≤ ((n - 1 : Nat) : Int)) →
    ∃ t v, exec .randbits s = .next t ∧ t.response = some ⟨.ok, some v⟩ ∧ 0 ≤ v ∧ v < 2 ^ s.opA.toNat ∧
      t.sampling = none ∧ t.streamReg = s.streamReg

/-- R124, R127: when no advance starts from the sentinel, RANDBITS of `k` bits advances STATE by `ceil(k/64)` GAMMAs
and composes the words most significant chunk first, the last one cut to its top `k mod 64` bits. -/
def Obligations.RandbitsComposesTheWords : Prop :=
  ∀ (s : State) (k : Nat), s.opA = (k : Int) → (∀ n, s.params.opw = .bits n → k ≤ n - 1) →
    (∀ j, j < (k + 63) / 64 → s.stateReg + BitVec.ofNat 64 j * 0x9E3779B97F4A7C15#64 ≠ 0#64) →
    let word := fun j : Nat => (mix64 (s.stateReg + BitVec.ofNat 64 (j + 1) * 0x9E3779B97F4A7C15#64)).toNat
    exec .randbits s =
      .next { s with
        stateReg := s.stateReg + BitVec.ofNat 64 ((k + 63) / 64) * 0x9E3779B97F4A7C15#64
        response := some ⟨.ok, some
          (((∑ j ∈ Finset.range (k / 64), word j * 2 ^ (k - 64 * (j + 1)))
            + (if k % 64 = 0 then 0 else word (k / 64) / 2 ^ (64 - k % 64)) : Nat) : Int)⟩
        sampling := none }

/-- R127: RANDBITS 64 is NEXT64. -/
def Obligations.Randbits64IsNext64 : Prop :=
  ∀ s : State, s.opA = 64 → s.params.opw.overCapacity 64 = false → exec .randbits s = exec .next64 s

/-! ## The range sampler -/

/-- R140: both draw widths, by what they are the least of, and where they differ. -/
def Obligations.DrawWidthsAreLeast : Prop :=
  ∀ n : Nat, 1 ≤ n →
    (n ≤ 2 ^ klen .ceilLog2 n ∧ ∀ k, n ≤ 2 ^ k → klen .ceilLog2 n ≤ k) ∧
    (n < 2 ^ klen .bitlen n ∧ ∀ k, n < 2 ^ k → klen .bitlen n ≤ k) ∧
    ((∃ e, n = 2 ^ e) → klen .bitlen n = klen .ceilLog2 n + 1) ∧
    ((¬∃ e, n = 2 ^ e) → klen .bitlen n = klen .ceilLog2 n)

/-- R143 (a): under CEIL_LOG2 a first draw whose top bit is 0 is accepted. A step makes at most `drawBudget` draws,
which is the model's own: assumption log 3. -/
def Obligations.DrawWithTopBitZeroIsAccepted : Prop :=
  ∀ s : State, s.params.kRule = .ceilLog2 → 2 ≤ s.opA → 1 ≤ s.drawBudget →
    let k := klen .ceilLog2 s.opA.toNat
    (randbits k s).1 < 2 ^ (k - 1) →
    exec .ubelow s =
      .next { (randbits k s).2 with response := some ⟨.ok, some ((randbits k s).1 : Int)⟩, sampling := none }

/-- R142, R180: UBELOW of a number that is not positive fails and changes nothing. -/
def Obligations.UbelowErrors : Prop :=
  (∀ fl : BitVec 4, decode (0x7#4 ++ fl) = if fl = 0 then .ok .ubelow else .error .reservedFlag) ∧
  ∀ s : State, s.opA ≤ 0 →
    exec .ubelow s = .next { s with response := some ⟨.invalidArgument, none⟩, sampling := none }

/-- R141, R142: UBELOW of a positive number: the first draw is the answer when it is below the bound; when it is not,
the loop goes on from the state that draw left, with one draw fewer in this step. -/
def Obligations.UbelowDrawsUntilBelow : Prop :=
  ∀ (s : State) (b : Nat), 1 ≤ s.opA → s.drawBudget = b + 1 →
    let d := randbits (klen s.params.kRule s.opA.toNat) s
    ((d.1 : Int) < s.opA →
      exec .ubelow s = .next { d.2 with response := some ⟨.ok, some (d.1 : Int)⟩, sampling := none }) ∧
    (s.opA ≤ (d.1 : Int) → ∀ t, exec .ubelow { d.2 with drawBudget := b } = .next t →
      exec .ubelow s = .next { t with drawBudget := b + 1 })

/-- R142, R145: under CEIL_LOG2 a bound that is a power of two takes exactly one draw, so UBELOW of `2^64` is NEXT64. -/
def Obligations.UbelowOfPowerOfTwo : Prop :=
  ∀ (s : State) (k : Nat), s.params.kRule = .ceilLog2 → s.opA = 2 ^ k → 1 ≤ s.drawBudget →
    exec .ubelow s =
      .next { (randbits k s).2 with response := some ⟨.ok, some ((randbits k s).1 : Int)⟩, sampling := none } ∧
    (k = 64 → exec .ubelow s = exec .next64 s)

/-- R145, R144: a range of one value. Under CEIL_LOG2 nothing is drawn; under either rule no other value comes out. -/
def Obligations.OneValueRanges : Prop :=
  (∀ s : State, s.params.kRule = .ceilLog2 → 1 ≤ s.drawBudget →
    (s.opA = 1 → exec .ubelow s = .next { s with response := some ⟨.ok, some 0⟩, sampling := none }) ∧
    (s.opA = s.opB → exec (.range true) s = .next { s with response := some ⟨.ok, some s.opA⟩, sampling := none })) ∧
  ∀ (s t : State) (v : Int), t.response = some ⟨.ok, some v⟩ →
    (s.opA = 1 → exec .ubelow s = .next t → v = 0) ∧
    (s.opA = s.opB → exec (.range true) s = .next t → v = s.opA)

/-- R144, R180: RANGE fails exactly on an empty range: inclusive when `max < min`, exclusive when `max <= min`. -/
def Obligations.RangeErrors : Prop :=
  (∀ fl : BitVec 4, decode (0x8#4 ++ fl) =
    if fl.getLsbD 1 || fl.getLsbD 2 || fl.getLsbD 3 then .error .reservedFlag else .ok (.range (fl.getLsbD 0))) ∧
  ∀ s t : State,
    (exec (.range true) s = .next t →
      (t.response = some ⟨.invalidRange, none⟩ ↔ s.opB < s.opA) ∧
      (s.opB < s.opA → t = { s with response := some ⟨.invalidRange, none⟩, sampling := none })) ∧
    (exec (.range false) s = .next t →
      (t.response = some ⟨.invalidRange, none⟩ ↔ s.opB ≤ s.opA) ∧
      (s.opB ≤ s.opA → t = { s with response := some ⟨.invalidRange, none⟩, sampling := none }))

/-- R141, R144: RANGE of a nonempty range: `min` plus the first draw below its exact size. -/
def Obligations.RangeAddsTheDrawToMin : Prop :=
  ∀ (s : State) (inc : Bool), 1 ≤ s.drawBudget →
    let n := s.opB - s.opA + (if inc then 1 else 0)
    let d := randbits (klen s.params.kRule n.toNat) s
    0 < n → (d.1 : Int) < n →
    exec (.range inc) s = .next { d.2 with response := some ⟨.ok, some (s.opA + d.1)⟩, sampling := none }

/-- R144, R146: whatever the number of draws, a result of UBELOW is in `[0, n)` and one of RANGE in its range; and so is
one that a later step of a command in progress delivers, with the base and the bound the command began with. -/
def Obligations.SampledValuesAreInRange : Prop :=
  ∀ (s t : State) (v : Int), t.response = some ⟨.ok, some v⟩ →
    (exec .ubelow s = .next t → 0 ≤ v ∧ v < s.opA) ∧
    (exec (.range true) s = .next t → s.opA ≤ v ∧ v ≤ s.opB) ∧
    (exec (.range false) s = .next t → s.opA ≤ v ∧ v < s.opB) ∧
    ∀ p : Sampling, s.sampling = some p → step s = .next t → p.base ≤ v ∧ v < p.base + p.n

/-- 92_eei_decisions.md D10: UBELOW `n` equals RANGE.X `0, n`, but for what stands on the operand ports. -/
def Obligations.UbelowIsRangeFromZero : Prop :=
  ∀ (s : State) (n b : Int), 1 ≤ n →
    ∃ t : State, exec .ubelow { s with opA := n, opB := b } = .next { t with opA := n, opB := b } ∧
      exec (.range false) { s with opA := 0, opB := n } = .next { t with opA := 0, opB := n }

/-- R141, R143: UBELOW and RANGE begin the same loop a step goes on with (a positive bound, no reset listed). -/
def Obligations.CommandsBeginTheSamplerLoop : Prop :=
  ∀ s : State, s.resetPort = [] →
    (1 ≤ s.opA →
      exec .ubelow s = step { s with sampling := some ⟨s.opA.toNat, klen s.params.kRule s.opA.toNat, 0⟩ }) ∧
    ∀ inc : Bool,
      let n := s.opB - s.opA + (if inc then 1 else 0)
      1 ≤ n →
      exec (.range inc) s = step { s with sampling := some ⟨n.toNat, klen s.params.kRule n.toNat, s.opA⟩ }

/-- R141, R143, U9: the steps of a command in progress are the rejection loop of R141 cut into steps: if the loop
accepts within `j` steps' draws some step answers with that draw added to the base, in the state the loop reached;
if it does not, after `j` steps there is still no response. How many draws a step makes does not matter. -/
def Obligations.StepsAreTheRejectionLoop : Prop :=
  ∀ (j : Nat) (p : Sampling) (s : State), s.sampling = some p → s.response = none → s.resetPort = [] →
    (∀ r t, drawLoop (j * s.drawBudget) p s = (some r, t) →
      ∃ i, i ≤ j ∧ steps i s = .next { t with response := some ⟨.ok, some (p.base + r)⟩, sampling := none }) ∧
    (∀ t, drawLoop (j * s.drawBudget) p s = (none, t) → steps j s = .next t)

/-! ## Rules of the whole machine -/

/-- R185, R186, R228: a step whose response is an error carries no result, has written no register, has not sampled
the clock, and leaves no command in progress; a command that has started drawing never ends so. -/
def Obligations.ErrorResponsesChangeNothing : Prop :=
  ∀ (s t : State) (r : Response), step s = .next t → t.response = some r → r.status ≠ .ok →
    r.result = none ∧ t.stateReg = s.stateReg ∧ t.streamReg = s.streamReg ∧
      t.clockSamples = s.clockSamples ∧ t.timePort = s.timePort ∧ t.sampling = none ∧ s.sampling = none

/-- R22: STREAM is written by RESEED with IV = 1 and by SETSID, and by a reset; by nothing else. -/
def Obligations.OnlyReseedAndSetsidWriteStream : Prop :=
  ∀ s t : State, step s = .next t → t.streamReg ≠ s.streamReg →
    s.resetAsserted = true ∨
      ∃ c rest, s.Presents c rest ∧ (c.cmd = 0x32#8 ∨ c.cmd = 0x33#8 ∨ c.cmd = 0x40#8)

/-- R21: what writes STATE: a reset, the draws of a command in progress, RESEED, SETSID, NEXT64, RANDBITS of more than
0 bits, UBELOW and RANGE. MIX64 and TSEED do not, nor does a word that is no command. -/
def Obligations.WritersOfState : Prop :=
  ∀ s t : State, step s = .next t → t.stateReg ≠ s.stateReg →
    s.resetAsserted = true ∨ s.sampling ≠ none ∨
      ∃ c rest, s.Presents c rest ∧
        ((∃ sv iv, decode c.cmd = .ok (.reseed sv iv)) ∨ c.cmd = 0x40#8 ∨ c.cmd = 0x50#8 ∨
          (c.cmd = 0x60#8 ∧ 0 < c.a) ∨
          (c.cmd = 0x70#8 ∧ 0 < klen s.params.kRule c.a.toNat) ∨
          (c.cmd = 0x80#8 ∧ 0 < klen s.params.kRule (c.b - c.a).toNat) ∨
          (c.cmd = 0x81#8 ∧ 0 < klen s.params.kRule (c.b - c.a + 1).toNat))

/-- R41, R46, R65: a command presented is taken and answered in the step, unless it is UBELOW or RANGE still drawing;
while a command is in progress no other is taken. -/
def Obligations.OneResponsePerCommand : Prop :=
  (∀ (s t : State) (c : Command) (rest : List Command), s.Presents c rest → step s = .next t →
    t.commands = rest ∧ (t.sampling = none ↔ t.response.isSome = true) ∧
      (t.sampling ≠ none → c.cmd = 0x70#8 ∨ c.cmd = 0x80#8 ∨ c.cmd = 0x81#8)) ∧
  ∀ (s t : State), s.sampling ≠ none → s.resetAsserted = false → step s = .next t →
    t.commands = s.commands ∧ (t.sampling = none ↔ t.response.isSome = true)

/-- R31, R49: no step changes the parameters, each consumes one entry of the reset input, and the readings of the time
port are consumed in order, one per clock sample. The inputs as fields of State, and that a reset leaves them to the host,
are the model's choice: assumption log 1, 5, 6, 7. -/
def Obligations.StepsConsumeTheInputsInOrder : Prop :=
  ∀ s t : State, step s = .next t →
    t.params = s.params ∧ t.drawBudget = s.drawBudget ∧ t.resetPort = s.resetPort.tail ∧
      s.clockSamples ≤ t.clockSamples ∧ t.timePort = s.timePort.drop (t.clockSamples - s.clockSamples) ∧
      (t.commands = s.commands ∨ t.commands = s.commands.tail)

/-- R23, R25, R28, R185: nothing of a command is kept: what stood on the operand ports and on the response port before
a step has no effect on what the step does. The clauses on what the operand ports hold after a step are the model's
choice and no part of R23, which says that nothing is kept of the operands: a step that takes a command leaves that
command's operands on the ports, also when a reset cuts it short, and every other step, a reset among them, leaves the
ports as they were (assumption log 2; for the steps with a reset log 6). A step that takes a command is one after which the
command has left its port. -/
def Obligations.NothingOfTheLastCommandIsKept : Prop :=
  ∀ (s : State) (a b : Int) (r : Option Response),
    (∀ x, step s = .refused x → step { s with opA := a, opB := b, response := r } = .refused x) ∧
    ∀ t, step s = .next t →
      (∀ c rest, s.commands = c :: rest → t.commands = rest →
        t.opA = c.a ∧ t.opB = c.b ∧ step { s with opA := a, opB := b, response := r } = .next t) ∧
      (t.commands = s.commands →
        t.opA = s.opA ∧ t.opB = s.opB ∧
          step { s with opA := a, opB := b, response := r } = .next { t with opA := a, opB := b })

/-- R63: an operand a command does not use has no effect. -/
def Obligations.UnusedOperandsAreIgnored : Prop :=
  ∀ (s t : State) (v : Int) (i : Instr), exec i s = .next t →
    ((i = .mix64 ∨ i = .tseed ∨ (∃ sv, i = .reseed sv false) ∨ i = .setsid ∨ i = .next64 ∨ i = .randbits ∨
        i = .ubelow) → exec i { s with opB := v } = .next { t with opB := v }) ∧
    ((i = .tseed ∨ (∃ iv, i = .reseed false iv) ∨ i = .next64) →
      exec i { s with opA := v } = .next { t with opA := v })

/-- Frame of every command: the ports of the host and the parameters are as before (R23, R31, R46). -/
def Obligations.CommandsLeaveThePortsAlone : Prop :=
  ∀ (i : Instr) (s t : State), exec i s = .next t →
    t.commands = s.commands ∧ t.opA = s.opA ∧ t.opB = s.opB ∧ t.resetPort = s.resetPort ∧
      t.params = s.params ∧ t.drawBudget = s.drawBudget

/-- Frame of the registers (R21, R22): MIX64 and TSEED write neither; RESEED without an identifier, NEXT64, RANDBITS,
UBELOW and RANGE do not write STREAM. -/
def Obligations.CommandsLeaveOtherRegistersAlone : Prop :=
  ∀ (i : Instr) (s t : State), exec i s = .next t →
    ((i = .mix64 ∨ i = .tseed) → t.stateReg = s.stateReg ∧ t.streamReg = s.streamReg) ∧
    (((∃ sv, i = .reseed sv false) ∨ i = .next64 ∨ i = .randbits ∨ i = .ubelow ∨ ∃ inc, i = .range inc) →
      t.streamReg = s.streamReg)

/-- R229, the clock samples of the commands other than RANDBITS, UBELOW and RANGE: none for MIX64 and RESEED with a seed,
one for TSEED, RESEED without a seed and SETSID, one for NEXT64 exactly when STATE is the sentinel. -/
def Obligations.ClockSamplesOfTheCommands : Prop :=
  ∀ (i : Instr) (s t : State), exec i s = .next t →
    ((i = .mix64 ∨ ∃ iv, i = .reseed true iv) → t.clockSamples = s.clockSamples) ∧
    ((i = .tseed ∨ i = .setsid ∨ ∃ iv, i = .reseed false iv) → t.clockSamples = s.clockSamples + 1) ∧
    (i = .next64 → t.clockSamples = s.clockSamples + if s.stateReg = 0#64 then 1 else 0)

/-! ## Assembler and host software -/

/-- R72, R73: the command of every form; the assembler refuses an operand outside the port's range. -/
def Obligations.AssemblerForms : Prop :=
  (∀ a b : Int, ∀ c : CmdWord,
    (AsmLine.mix64 a).command = ⟨0x10, a, 0⟩ ∧ AsmLine.tseed.command = ⟨0x20, 0, 0⟩ ∧
    (AsmLine.reseed none none).command = ⟨0x30, 0, 0⟩ ∧ (AsmLine.reseed (some a) none).command = ⟨0x31, a, 0⟩ ∧
    (AsmLine.reseed none (some b)).command = ⟨0x32, 0, b⟩ ∧
    (AsmLine.reseed (some a) (some b)).command = ⟨0x33, a, b⟩ ∧ (AsmLine.setsid a).command = ⟨0x40, a, 0⟩ ∧
    AsmLine.next64.command = ⟨0x50, 0, 0⟩ ∧ (AsmLine.randbits a).command = ⟨0x60, a, 0⟩ ∧
    (AsmLine.ubelow a).command = ⟨0x70, a, 0⟩ ∧ (AsmLine.rangeX a b).command = ⟨0x80, a, b⟩ ∧
    (AsmLine.rangeI a b).command = ⟨0x81, a, b⟩ ∧ (AsmLine.word c a b).command = ⟨c, a, b⟩ ∧
    (AsmLine.range a b).command = (AsmLine.rangeI a b).command ∧
    AsmLine.rand64.command = (AsmLine.randbits 64).command) ∧
  ∀ (w : OperandWidth) (l : AsmLine),
    (assemble w l = .ok l.command ↔ w.fits l.command.a = true ∧ w.fits l.command.b = true) ∧
    (assemble w l = .error .tooWide ↔ ¬(w.fits l.command.a = true ∧ w.fits l.command.b = true))

/-- R160, R161, R166, R168: integer mode and the source's decimal example; host software, not hardware. -/
def Obligations.HostCallsIssueRange : Prop :=
  (∀ (a b : Int) (inclusive : Bool),
    (ApiCall.timeBasedRandom (.int a) (.int b) inclusive none).plan =
      .ok ⟨if inclusive then .rangeI a b else .rangeX a b, none⟩) ∧
  (timeBasedRandom (.text "0.000".toList) (.text "0.999".toList) (precision := some 3)).plan =
    .ok ⟨.rangeI 0 999, some 3⟩ ∧
  (HostPlan.mk (.rangeI 0 999) (some 3)).value ⟨.ok, some 534⟩ = .decimal 534 3

/-- R163, R164: a bound's scaled integer: zeros are appended to a short fraction, a long one is cut without rounding. -/
def Obligations.DecimalScaling : Prop :=
  ∀ (neg : Bool) (whole frac : List Char) (p : Nat),
    (frac.length ≤ p →
      (DecimalText.mk neg whole frac).scaled p =
        (if neg then -1 else 1) *
          ((digitsOrZero whole * 10 ^ p + digitsOrZero frac * 10 ^ (p - frac.length) : Nat) : Int)) ∧
    (p ≤ frac.length →
      (DecimalText.mk neg whole frac).scaled p =
        (if neg then -1 else 1) * ((digitsOrZero whole * 10 ^ p + digitsOrZero (frac.take p) : Nat) : Int))

/-! ## The clock samples of the drawing commands -/

/-- R49, R127, R128, R229: RANDBITS, UBELOW, RANGE and every step of a command in progress sample the clock once for each
word that starts from the sentinel and at no other time, `k` bits being `ceil(k/64)` words and every draw counted, the
rejected ones too. How many draws a step makes is the model's own: assumption log 3. -/
def Obligations.ClockSamplesOfTheDraws : Prop :=
  (∀ (s t : State) (v : Int), exec .randbits s = .next t → t.response = some ⟨.ok, some v⟩ →
    let m := (s.opA.toNat + 63) / 64
    t.clockSamples = s.clockSamples + lazySeeds m s ∧ t.timePort = s.timePort.drop (lazySeeds m s)) ∧
  ∀ (s t : State) (p : Sampling) (d : Nat), drawsMade d p s →
    ((1 ≤ s.opA ∧ p = ⟨s.opA.toNat, klen s.params.kRule s.opA.toNat, 0⟩ ∧ exec .ubelow s = .next t) ∨
      (∃ inc : Bool,
        let n := s.opB - s.opA + (if inc then 1 else 0)
        1 ≤ n ∧ p = ⟨n.toNat, klen s.params.kRule n.toNat, s.opA⟩ ∧ exec (.range inc) s = .next t) ∨
      (s.resetAsserted = false ∧ s.sampling = some p ∧ step s = .next t)) →
    let m := d * ((p.k + 63) / 64)
    t.clockSamples = s.clockSamples + lazySeeds m s ∧ t.timePort = s.timePort.drop (lazySeeds m s)

/-! ## RANDBITS through the sentinel -/

/-- R121, R122, R124, R127, R128: RANDBITS in every state, the sentinel at its start or in its course included. The words are
those of R121, each after a lazy seed from one clock sample and the current STREAM where STATE is the sentinel, and the
result composes them as R124 does. Begun from the sentinel, RANDBITS of more than 0 bits is RANDBITS from the state the lazy
seed leaves. -/
def Obligations.RandbitsThroughTheSentinel : Prop :=
  let lazy := fun u : State =>
    let combined := mix64 (mix64 (BitVec.ofNat 64 (timeCode u.reading)) ^^^ mix64 u.streamReg)
    { u with
      stateReg := if combined = 0#64 then 1#64 else combined
      timePort := u.timePort.tail, clockSamples := u.clockSamples + 1 }
  let next := fun u : State =>
    let v := if u.stateReg = 0#64 then lazy u else u
    { v with stateReg := v.stateReg + 0x9E3779B97F4A7C15#64 }
  (∀ (s : State) (k : Nat), s.opA = (k : Int) → (∀ n, s.params.opw = .bits n → k ≤ n - 1) →
    let word := fun j : Nat => (mix64 (next^[j + 1] s).stateReg).toNat
    exec .randbits s =
      .next { next^[(k + 63) / 64] s with
        response := some ⟨.ok, some
          (((∑ j ∈ Finset.range (k / 64), word j * 2 ^ (k - 64 * (j + 1)))
            + (if k % 64 = 0 then 0 else word (k / 64) / 2 ^ (64 - k % 64)) : Nat) : Int)⟩
        sampling := none }) ∧
  ∀ s : State, s.stateReg = 0#64 → 0 < s.opA → (∀ n, s.params.opw = .bits n → s.opA ≤ ((n - 1 : Nat) : Int)) →
    exec .randbits s = exec .randbits (lazy s)
end

