-- ==== Sys2Proof/Laws/State.lean ====
section
/-! SUPPORT. For each named update of the state, the value of every field after it, each true by unfolding the update
once; no later proof unfolds a record update. -/

namespace Sys2Proof.Machine

@[simp] theorem respondOk_eq (s : State) (v : Int) : s.respondOk v = s.respond .ok (some v) := rfl
@[simp] theorem respondWord_eq (s : State) (w : Word) : s.respondWord w = s.respond .ok (some (zext w)) := rfl
@[simp] theorem raise_eq (s : State) (st : Status) : s.raise st = s.respond st none := rfl

@[simp] theorem writeState_stateReg (s : State) (v : Word) :
    (s.writeState v).stateReg = v := rfl
@[simp] theorem writeState_streamReg (s : State) (v : Word) :
    (s.writeState v).streamReg = s.streamReg := rfl
@[simp] theorem writeState_sampling (s : State) (v : Word) :
    (s.writeState v).sampling = s.sampling := rfl
@[simp] theorem writeState_response (s : State) (v : Word) :
    (s.writeState v).response = s.response := rfl
@[simp] theorem writeState_commands (s : State) (v : Word) :
    (s.writeState v).commands = s.commands := rfl
@[simp] theorem writeState_opA (s : State) (v : Word) :
    (s.writeState v).opA = s.opA := rfl
@[simp] theorem writeState_opB (s : State) (v : Word) :
    (s.writeState v).opB = s.opB := rfl
@[simp] theorem writeState_timePort (s : State) (v : Word) :
    (s.writeState v).timePort = s.timePort := rfl
@[simp] theorem writeState_clockSamples (s : State) (v : Word) :
    (s.writeState v).clockSamples = s.clockSamples := rfl
@[simp] theorem writeState_resetPort (s : State) (v : Word) :
    (s.writeState v).resetPort = s.resetPort := rfl
@[simp] theorem writeState_params (s : State) (v : Word) :
    (s.writeState v).params = s.params := rfl
@[simp] theorem writeState_drawBudget (s : State) (v : Word) :
    (s.writeState v).drawBudget = s.drawBudget := rfl

@[simp] theorem writeStream_stateReg (s : State) (v : Word) :
    (s.writeStream v).stateReg = s.stateReg := rfl
@[simp] theorem writeStream_streamReg (s : State) (v : Word) :
    (s.writeStream v).streamReg = v := rfl
@[simp] theorem writeStream_sampling (s : State) (v : Word) :
    (s.writeStream v).sampling = s.sampling := rfl
@[simp] theorem writeStream_response (s : State) (v : Word) :
    (s.writeStream v).response = s.response := rfl
@[simp] theorem writeStream_commands (s : State) (v : Word) :
    (s.writeStream v).commands = s.commands := rfl
@[simp] theorem writeStream_opA (s : State) (v : Word) :
    (s.writeStream v).opA = s.opA := rfl
@[simp] theorem writeStream_opB (s : State) (v : Word) :
    (s.writeStream v).opB = s.opB := rfl
@[simp] theorem writeStream_timePort (s : State) (v : Word) :
    (s.writeStream v).timePort = s.timePort := rfl
@[simp] theorem writeStream_clockSamples (s : State) (v : Word) :
    (s.writeStream v).clockSamples = s.clockSamples := rfl
@[simp] theorem writeStream_resetPort (s : State) (v : Word) :
    (s.writeStream v).resetPort = s.resetPort := rfl
@[simp] theorem writeStream_params (s : State) (v : Word) :
    (s.writeStream v).params = s.params := rfl
@[simp] theorem writeStream_drawBudget (s : State) (v : Word) :
    (s.writeStream v).drawBudget = s.drawBudget := rfl

@[simp] theorem respond_stateReg (s : State) (st : Status) (r : Option Int) :
    (s.respond st r).stateReg = s.stateReg := rfl
@[simp] theorem respond_streamReg (s : State) (st : Status) (r : Option Int) :
    (s.respond st r).streamReg = s.streamReg := rfl
@[simp] theorem respond_sampling (s : State) (st : Status) (r : Option Int) :
    (s.respond st r).sampling = none := rfl
@[simp] theorem respond_response (s : State) (st : Status) (r : Option Int) :
    (s.respond st r).response = some ⟨st, r⟩ := rfl
@[simp] theorem respond_commands (s : State) (st : Status) (r : Option Int) :
    (s.respond st r).commands = s.commands := rfl
@[simp] theorem respond_opA (s : State) (st : Status) (r : Option Int) :
    (s.respond st r).opA = s.opA := rfl
@[simp] theorem respond_opB (s : State) (st : Status) (r : Option Int) :
    (s.respond st r).opB = s.opB := rfl
@[simp] theorem respond_timePort (s : State) (st : Status) (r : Option Int) :
    (s.respond st r).timePort = s.timePort := rfl
@[simp] theorem respond_clockSamples (s : State) (st : Status) (r : Option Int) :
    (s.respond st r).clockSamples = s.clockSamples := rfl
@[simp] theorem respond_resetPort (s : State) (st : Status) (r : Option Int) :
    (s.respond st r).resetPort = s.resetPort := rfl
@[simp] theorem respond_params (s : State) (st : Status) (r : Option Int) :
    (s.respond st r).params = s.params := rfl
@[simp] theorem respond_drawBudget (s : State) (st : Status) (r : Option Int) :
    (s.respond st r).drawBudget = s.drawBudget := rfl

@[simp] theorem keepSampling_stateReg (s : State) (p : Sampling) :
    (s.keepSampling p).stateReg = s.stateReg := rfl
@[simp] theorem keepSampling_streamReg (s : State) (p : Sampling) :
    (s.keepSampling p).streamReg = s.streamReg := rfl
@[simp] theorem keepSampling_sampling (s : State) (p : Sampling) :
    (s.keepSampling p).sampling = some p := rfl
@[simp] theorem keepSampling_response (s : State) (p : Sampling) :
    (s.keepSampling p).response = none := rfl
@[simp] theorem keepSampling_commands (s : State) (p : Sampling) :
    (s.keepSampling p).commands = s.commands := rfl
@[simp] theorem keepSampling_opA (s : State) (p : Sampling) :
    (s.keepSampling p).opA = s.opA := rfl
@[simp] theorem keepSampling_opB (s : State) (p : Sampling) :
    (s.keepSampling p).opB = s.opB := rfl
@[simp] theorem keepSampling_timePort (s : State) (p : Sampling) :
    (s.keepSampling p).timePort = s.timePort := rfl
@[simp] theorem keepSampling_clockSamples (s : State) (p : Sampling) :
    (s.keepSampling p).clockSamples = s.clockSamples := rfl
@[simp] theorem keepSampling_resetPort (s : State) (p : Sampling) :
    (s.keepSampling p).resetPort = s.resetPort := rfl
@[simp] theorem keepSampling_params (s : State) (p : Sampling) :
    (s.keepSampling p).params = s.params := rfl
@[simp] theorem keepSampling_drawBudget (s : State) (p : Sampling) :
    (s.keepSampling p).drawBudget = s.drawBudget := rfl

@[simp] theorem accept_stateReg (s : State) (c : Command) (rest : List Command) :
    (s.accept c rest).stateReg = s.stateReg := rfl
@[simp] theorem accept_streamReg (s : State) (c : Command) (rest : List Command) :
    (s.accept c rest).streamReg = s.streamReg := rfl
@[simp] theorem accept_sampling (s : State) (c : Command) (rest : List Command) :
    (s.accept c rest).sampling = s.sampling := rfl
@[simp] theorem accept_response (s : State) (c : Command) (rest : List Command) :
    (s.accept c rest).response = none := rfl
@[simp] theorem accept_commands (s : State) (c : Command) (rest : List Command) :
    (s.accept c rest).commands = rest := rfl
@[simp] theorem accept_opA (s : State) (c : Command) (rest : List Command) :
    (s.accept c rest).opA = c.a := rfl
@[simp] theorem accept_opB (s : State) (c : Command) (rest : List Command) :
    (s.accept c rest).opB = c.b := rfl
@[simp] theorem accept_timePort (s : State) (c : Command) (rest : List Command) :
    (s.accept c rest).timePort = s.timePort := rfl
@[simp] theorem accept_clockSamples (s : State) (c : Command) (rest : List Command) :
    (s.accept c rest).clockSamples = s.clockSamples := rfl
@[simp] theorem accept_resetPort (s : State) (c : Command) (rest : List Command) :
    (s.accept c rest).resetPort = s.resetPort := rfl
@[simp] theorem accept_params (s : State) (c : Command) (rest : List Command) :
    (s.accept c rest).params = s.params := rfl
@[simp] theorem accept_drawBudget (s : State) (c : Command) (rest : List Command) :
    (s.accept c rest).drawBudget = s.drawBudget := rfl

@[simp] theorem idle_stateReg (s : State) :
    (s.idle).stateReg = s.stateReg := rfl
@[simp] theorem idle_streamReg (s : State) :
    (s.idle).streamReg = s.streamReg := rfl
@[simp] theorem idle_sampling (s : State) :
    (s.idle).sampling = s.sampling := rfl
@[simp] theorem idle_response (s : State) :
    (s.idle).response = none := rfl
@[simp] theorem idle_commands (s : State) :
    (s.idle).commands = s.commands := rfl
@[simp] theorem idle_opA (s : State) :
    (s.idle).opA = s.opA := rfl
@[simp] theorem idle_opB (s : State) :
    (s.idle).opB = s.opB := rfl
@[simp] theorem idle_timePort (s : State) :
    (s.idle).timePort = s.timePort := rfl
@[simp] theorem idle_clockSamples (s : State) :
    (s.idle).clockSamples = s.clockSamples := rfl
@[simp] theorem idle_resetPort (s : State) :
    (s.idle).resetPort = s.resetPort := rfl
@[simp] theorem idle_params (s : State) :
    (s.idle).params = s.params := rfl
@[simp] theorem idle_drawBudget (s : State) :
    (s.idle).drawBudget = s.drawBudget := rfl

@[simp] theorem tickReset_stateReg (s : State) :
    (s.tickReset).stateReg = s.stateReg := rfl
@[simp] theorem tickReset_streamReg (s : State) :
    (s.tickReset).streamReg = s.streamReg := rfl
@[simp] theorem tickReset_sampling (s : State) :
    (s.tickReset).sampling = s.sampling := rfl
@[simp] theorem tickReset_response (s : State) :
    (s.tickReset).response = s.response := rfl
@[simp] theorem tickReset_commands (s : State) :
    (s.tickReset).commands = s.commands := rfl
@[simp] theorem tickReset_opA (s : State) :
    (s.tickReset).opA = s.opA := rfl
@[simp] theorem tickReset_opB (s : State) :
    (s.tickReset).opB = s.opB := rfl
@[simp] theorem tickReset_timePort (s : State) :
    (s.tickReset).timePort = s.timePort := rfl
@[simp] theorem tickReset_clockSamples (s : State) :
    (s.tickReset).clockSamples = s.clockSamples := rfl
@[simp] theorem tickReset_resetPort (s : State) :
    (s.tickReset).resetPort = s.resetPort.tail := rfl
@[simp] theorem tickReset_params (s : State) :
    (s.tickReset).params = s.params := rfl
@[simp] theorem tickReset_drawBudget (s : State) :
    (s.tickReset).drawBudget = s.drawBudget := rfl

@[simp] theorem resetCore_stateReg (s : State) :
    (s.resetCore).stateReg = 0#64 := rfl
@[simp] theorem resetCore_streamReg (s : State) :
    (s.resetCore).streamReg = 0#64 := rfl
@[simp] theorem resetCore_sampling (s : State) :
    (s.resetCore).sampling = none := rfl
@[simp] theorem resetCore_response (s : State) :
    (s.resetCore).response = none := rfl
@[simp] theorem resetCore_commands (s : State) :
    (s.resetCore).commands = s.commands := rfl
@[simp] theorem resetCore_opA (s : State) :
    (s.resetCore).opA = s.opA := rfl
@[simp] theorem resetCore_opB (s : State) :
    (s.resetCore).opB = s.opB := rfl
@[simp] theorem resetCore_timePort (s : State) :
    (s.resetCore).timePort = s.timePort := rfl
@[simp] theorem resetCore_clockSamples (s : State) :
    (s.resetCore).clockSamples = s.clockSamples := rfl
@[simp] theorem resetCore_resetPort (s : State) :
    (s.resetCore).resetPort = s.resetPort := rfl
@[simp] theorem resetCore_params (s : State) :
    (s.resetCore).params = s.params := rfl
@[simp] theorem resetCore_drawBudget (s : State) :
    (s.resetCore).drawBudget = s.drawBudget := rfl

@[simp] theorem hardReset_stateReg (s : State) :
    (s.hardReset).stateReg = 0#64 := rfl
@[simp] theorem hardReset_streamReg (s : State) :
    (s.hardReset).streamReg = 0#64 := rfl
@[simp] theorem hardReset_sampling (s : State) :
    (s.hardReset).sampling = none := rfl
@[simp] theorem hardReset_response (s : State) :
    (s.hardReset).response = none := rfl
@[simp] theorem hardReset_commands (s : State) :
    (s.hardReset).commands = s.commands := rfl
@[simp] theorem hardReset_opA (s : State) :
    (s.hardReset).opA = s.opA := rfl
@[simp] theorem hardReset_opB (s : State) :
    (s.hardReset).opB = s.opB := rfl
@[simp] theorem hardReset_timePort (s : State) :
    (s.hardReset).timePort = s.timePort := rfl
@[simp] theorem hardReset_clockSamples (s : State) :
    (s.hardReset).clockSamples = s.clockSamples := rfl
@[simp] theorem hardReset_resetPort (s : State) :
    (s.hardReset).resetPort = s.resetPort.tail := rfl
@[simp] theorem hardReset_params (s : State) :
    (s.hardReset).params = s.params := rfl
@[simp] theorem hardReset_drawBudget (s : State) :
    (s.hardReset).drawBudget = s.drawBudget := rfl

@[simp] theorem cutShort_stateReg (s t : State) (m : Nat) :
    (s.cutShort t m).stateReg = 0#64 := rfl
@[simp] theorem cutShort_streamReg (s t : State) (m : Nat) :
    (s.cutShort t m).streamReg = 0#64 := rfl
@[simp] theorem cutShort_sampling (s t : State) (m : Nat) :
    (s.cutShort t m).sampling = none := rfl
@[simp] theorem cutShort_response (s t : State) (m : Nat) :
    (s.cutShort t m).response = none := rfl
@[simp] theorem cutShort_commands (s t : State) (m : Nat) :
    (s.cutShort t m).commands = t.commands := rfl
@[simp] theorem cutShort_opA (s t : State) (m : Nat) :
    (s.cutShort t m).opA = t.opA := rfl
@[simp] theorem cutShort_opB (s t : State) (m : Nat) :
    (s.cutShort t m).opB = t.opB := rfl
@[simp] theorem cutShort_timePort (s t : State) (m : Nat) :
    (s.cutShort t m).timePort = s.timePort.drop (s.cutSamples t m) := rfl
@[simp] theorem cutShort_clockSamples (s t : State) (m : Nat) :
    (s.cutShort t m).clockSamples = s.clockSamples + s.cutSamples t m := rfl
@[simp] theorem cutShort_resetPort (s t : State) (m : Nat) :
    (s.cutShort t m).resetPort = t.resetPort := rfl
@[simp] theorem cutShort_params (s t : State) (m : Nat) :
    (s.cutShort t m).params = t.params := rfl
@[simp] theorem cutShort_drawBudget (s t : State) (m : Nat) :
    (s.cutShort t m).drawBudget = t.drawBudget := rfl

end Sys2Proof.Machine
end

