-- ==== Sys2Proof/Laws/Ops.lean ====
section
/-! SUPPORT. One lemma per shared operation that says everything it can do; proofs about the commands cite these and
do not unfold the operations. -/

namespace Sys2Proof.Machine

/-- A clock sample takes the next reading and moves the time port on; nothing else. -/
theorem clockSample_eq (s : State) :
    s.clockSample =
      (s.reading, { s with timePort := s.timePort.tail, clockSamples := s.clockSamples + 1 }) := by
  unfold State.clockSample State.reading
  cases s.timePort <;> simp

theorem timeSeed64_eq (s : State) :
    timeSeed64 s =
      (seedOfReading s.reading, { s with timePort := s.timePort.tail, clockSamples := s.clockSamples + 1 }) := by
  simp [timeSeed64, clockSample_eq]

/-- A seeding never writes the sentinel. -/
theorem seedState_ne_zero (base stream : Word) : seedState base stream ≠ 0#64 := by
  unfold seedState
  split
  · decide
  · assumption

/-- A seeding with a seed writes STATE, and STREAM if an identifier is given; it does not sample the clock. -/
theorem reseedProc_some (v : Word) (sid : Option Word) (s : State) :
    reseedProc (some v) sid s =
      (seedState (mix64 v) (sid.getD s.streamReg),
        { s with
          stateReg := seedState (mix64 v) (sid.getD s.streamReg)
          streamReg := sid.getD s.streamReg }) := by
  cases sid <;> rfl

/-- A seeding without a seed does the same from one clock sample. -/
theorem reseedProc_none (sid : Option Word) (s : State) :
    reseedProc none sid s =
      (seedState (seedOfReading s.reading) (sid.getD s.streamReg),
        { s with
          stateReg := seedState (seedOfReading s.reading) (sid.getD s.streamReg)
          streamReg := sid.getD s.streamReg
          timePort := s.timePort.tail
          clockSamples := s.clockSamples + 1 }) := by
  cases sid <;> simp [reseedProc, seedBase, timeSeed64_eq, State.storeStream, State.writeState, State.writeStream,
    State.reading]

/-- `next_u64` from an initialised STATE advances it and does nothing else. -/
theorem nextU64_initialised (s : State) (h : s.stateReg ≠ 0#64) :
    nextU64 s = (mix64 (s.stateReg + gamma), { s with stateReg := s.stateReg + gamma }) := by
  simp only [nextU64, lazySeed, if_neg h, advance, State.writeState]

/-- `next_u64` from the sentinel seeds from one clock sample and the current STREAM first. -/
theorem nextU64_sentinel (s : State) (h : s.stateReg = 0#64) :
    nextU64 s =
      (mix64 (seedState (seedOfReading s.reading) s.streamReg + gamma),
        { s with
          stateReg := seedState (seedOfReading s.reading) s.streamReg + gamma
          timePort := s.timePort.tail
          clockSamples := s.clockSamples + 1 }) := by
  simp only [nextU64, lazySeed, if_pos h, advance, reseedProc_none, State.writeState, Option.getD_none]

/-- What drawing words can do to a state: advance or reseed STATE and sample the clock `m` times. -/
def Drawn (s t : State) : Prop :=
  ∃ v m, t = { s with stateReg := v, timePort := s.timePort.drop m, clockSamples := s.clockSamples + m }

theorem Drawn.refl (s : State) : Drawn s s := ⟨s.stateReg, 0, by simp⟩

theorem Drawn.trans {s t u : State} (h : Drawn s t) (k : Drawn t u) : Drawn s u := by
  obtain ⟨v, m, rfl⟩ := h
  obtain ⟨w, n, rfl⟩ := k
  exact ⟨w, m + n, by simp [Nat.add_assoc]⟩

theorem nextU64_drawn (s : State) : Drawn s (nextU64 s).2 := by
  by_cases h : s.stateReg = 0#64
  · rw [nextU64_sentinel s h]
    exact ⟨seedState (seedOfReading s.reading) s.streamReg + gamma, 1, by simp⟩
  · rw [nextU64_initialised s h]
    exact ⟨s.stateReg + gamma, 0, by simp⟩

theorem randLoop_drawn (fuel rem r : Nat) (s : State) : Drawn s (randLoop fuel rem r s).2 := by
  induction fuel generalizing rem r s with
  | zero => exact Drawn.refl s
  | succ f ih =>
    simp only [randLoop]
    split
    · exact Drawn.refl s
    · exact (nextU64_drawn s).trans (ih _ _ _)

theorem randbits_drawn (k : Nat) (s : State) : Drawn s (randbits k s).2 := randLoop_drawn _ _ _ s

@[simp] theorem randbits_streamReg (k : Nat) (s : State) : (randbits k s).2.streamReg = s.streamReg := by
  obtain ⟨v, m, h⟩ := randbits_drawn k s
  rw [h]

@[simp] theorem randbits_sampling (k : Nat) (s : State) : (randbits k s).2.sampling = s.sampling := by
  obtain ⟨v, m, h⟩ := randbits_drawn k s
  rw [h]

@[simp] theorem randbits_response (k : Nat) (s : State) : (randbits k s).2.response = s.response := by
  obtain ⟨v, m, h⟩ := randbits_drawn k s
  rw [h]

@[simp] theorem randbits_commands (k : Nat) (s : State) : (randbits k s).2.commands = s.commands := by
  obtain ⟨v, m, h⟩ := randbits_drawn k s
  rw [h]

@[simp] theorem randbits_opA (k : Nat) (s : State) : (randbits k s).2.opA = s.opA := by
  obtain ⟨v, m, h⟩ := randbits_drawn k s
  rw [h]

@[simp] theorem randbits_opB (k : Nat) (s : State) : (randbits k s).2.opB = s.opB := by
  obtain ⟨v, m, h⟩ := randbits_drawn k s
  rw [h]

@[simp] theorem randbits_resetPort (k : Nat) (s : State) : (randbits k s).2.resetPort = s.resetPort := by
  obtain ⟨v, m, h⟩ := randbits_drawn k s
  rw [h]

@[simp] theorem randbits_drawBudget (k : Nat) (s : State) : (randbits k s).2.drawBudget = s.drawBudget := by
  obtain ⟨v, m, h⟩ := randbits_drawn k s
  rw [h]

@[simp] theorem randbits_params (k : Nat) (s : State) : (randbits k s).2.params = s.params := by
  obtain ⟨v, m, h⟩ := randbits_drawn k s
  rw [h]

/-- No bit to draw: no word is drawn. -/
@[simp] theorem randbits_zero (s : State) : randbits 0 s = (0, s) := rfl

/-- One turn of the word loop keeps "what is drawn so far is below the power of two of its length". -/
theorem randLoop_lt (fuel rem r len : Nat) (s : State) (hr : r < 2 ^ len) (hf : wordsFor rem ≤ fuel) :
    (randLoop fuel rem r s).1 < 2 ^ (len + rem) := by
  induction fuel generalizing rem r len s with
  | zero =>
    have h0 : rem = 0 := by simp [wordsFor] at hf; omega
    simpa [randLoop, h0] using hr
  | succ f ih =>
    simp only [randLoop]
    split
    · rename_i h0
      simpa [h0] using hr
    · rename_i h0
      have hsplit : len + rem = (len + min 64 rem) + (rem - min 64 rem) := by omega
      rw [hsplit]
      apply ih
      · have hw : (nextU64 s).1.toNat >>> (64 - min 64 rem) < 2 ^ min 64 rem := by
          rw [Nat.shiftRight_eq_div_pow, Nat.div_lt_iff_lt_mul (by positivity), ← Nat.pow_add]
          have : min 64 rem + (64 - min 64 rem) = 64 := by omega
          rw [this]
          exact (nextU64 s).1.isLt
        apply Nat.or_lt_two_pow
        · rw [Nat.shiftLeft_eq, Nat.pow_add]
          exact Nat.mul_lt_mul_of_pos_right hr (by positivity)
        · exact hw.trans_le (Nat.pow_le_pow_right (by norm_num) (by omega))
      · simp only [wordsFor] at hf ⊢
        omega

/-- A draw of `k` bits is below `2^k` (R124). -/
theorem randbits_lt (k : Nat) (s : State) : (randbits k s).1 < 2 ^ k := by
  simpa [randbits] using randLoop_lt (wordsFor k) k 0 0 s (by norm_num) (Nat.le_refl _)

theorem drawLoop_drawn (fuel : Nat) (p : Sampling) (s : State) : Drawn s (drawLoop fuel p s).2 := by
  induction fuel generalizing s with
  | zero => exact Drawn.refl s
  | succ f ih =>
    simp only [drawLoop]
    split
    · exact randbits_drawn p.k s
    · exact (randbits_drawn p.k s).trans (ih _)

/-- An accepted draw is below the bound (R141). -/
theorem drawLoop_lt {fuel : Nat} {p : Sampling} {s : State} {r : Nat} (h : (drawLoop fuel p s).1 = some r) :
    r < p.n := by
  induction fuel generalizing s with
  | zero => cases h
  | succ f ih =>
    simp only [drawLoop] at h
    split at h
    · rename_i hlt
      simp only [Option.some.injEq] at h
      omega
    · exact ih h

/-- More draws go on from the state the rejected ones reached. -/
theorem drawLoop_add (a b : Nat) (p : Sampling) (s : State) :
    drawLoop (a + b) p s =
      if (drawLoop a p s).1.isSome then drawLoop a p s else drawLoop b p (drawLoop a p s).2 := by
  induction a generalizing s with
  | zero => simp [drawLoop]
  | succ a ih =>
    rw [Nat.succ_add]
    simp only [drawLoop]
    split
    · simp
    · exact ih _

/-- A step of the rejection loop either ends the command with an accepted draw or leaves it in progress. -/
theorem runSampling_cases (p : Sampling) (s : State) :
    (∃ r t, drawLoop s.drawBudget p s = (some r, t) ∧ r < p.n ∧ runSampling p s = t.respondOk (p.base + r)) ∨
      ∃ t, drawLoop s.drawBudget p s = (none, t) ∧ runSampling p s = t.keepSampling p := by
  unfold runSampling
  rcases h : drawLoop s.drawBudget p s with ⟨_ | r, t⟩
  · exact .inr ⟨t, rfl, rfl⟩
  · exact .inl ⟨r, t, rfl, drawLoop_lt (by rw [h]), rfl⟩

/-- Every command answers a next state: errors are responses (R180, R188). -/
theorem exec_next (i : Instr) (s : State) : ∃ t, exec i s = .next t := by
  cases i <;> exact ⟨_, rfl⟩

/-- A command taken from the port either runs or is no command and answers ILLEGAL. -/
theorem takeCommand_cases {c : Command} {rest : List Command} {s t : State} (h : takeCommand c rest s = .next t) :
    c.presentable s.params.opw = true ∧
      ((∃ i, decode c.cmd = .ok i ∧ exec i (s.accept c rest) = .next t) ∨
        ∃ e, decode c.cmd = .error e ∧ t = (s.accept c rest).raise .illegal) := by
  unfold takeCommand at h
  split at h
  · rename_i hp
    refine ⟨hp, ?_⟩
    cases hd : decode c.cmd with
    | ok i => simp only [hd] at h; exact .inl ⟨i, rfl, h⟩
    | error e =>
      simp only [hd, Host.Outcome.next.injEq] at h
      exact .inr ⟨e, rfl, h.symm⟩
  · cases h

/-- Everything a step without a reset can be when it answers a next state: the next draws of the command in progress,
idling, a command that runs, or a word that is no command. -/
theorem work_cases {s t : State} (h : work s = .next t) :
    (∃ p, s.sampling = some p ∧ t = runSampling p s) ∨
      (s.sampling = none ∧ s.commands = [] ∧ t = s.idle) ∨
      (∃ c rest i, s.sampling = none ∧ s.commands = c :: rest ∧ c.presentable s.params.opw = true ∧
        decode c.cmd = .ok i ∧ exec i (s.accept c rest) = .next t) ∨
      (∃ c rest e, s.sampling = none ∧ s.commands = c :: rest ∧ c.presentable s.params.opw = true ∧
        decode c.cmd = .error e ∧ t = (s.accept c rest).raise .illegal) := by
  unfold work at h
  cases hs : s.sampling with
  | some p => simp only [hs, Host.Outcome.next.injEq] at h; exact .inl ⟨p, rfl, h.symm⟩
  | none =>
    cases hc : s.commands with
    | nil =>
      simp only [hs, hc, Host.Outcome.next.injEq] at h
      exact .inr (.inl ⟨rfl, rfl, h.symm⟩)
    | cons c rest =>
      simp only [hs, hc] at h
      obtain ⟨hp, ⟨i, hd, he⟩ | ⟨e, hd, he⟩⟩ := takeCommand_cases h
      · exact .inr (.inr (.inl ⟨c, rest, i, rfl, rfl, hp, hd, he⟩))
      · exact .inr (.inr (.inr ⟨c, rest, e, rfl, rfl, hp, hd, he⟩))

/-- The reset input is asserted in one of two ways. -/
theorem resetAsserted_cases {s : State} (h : s.resetAsserted = true) :
    s.resetInput = .asserted ∨ ∃ m, s.resetInput = .assertedDuring m := by
  unfold State.resetAsserted at h
  cases hr : s.resetInput with
  | deasserted => simp [hr] at h
  | asserted => exact .inl rfl
  | assertedDuring m => exact .inr ⟨m, rfl⟩

theorem resetInput_deasserted {s : State} (h : s.resetAsserted = false) : s.resetInput = .deasserted := by
  unfold State.resetAsserted at h
  cases hr : s.resetInput <;> simp [hr] at h ⊢

/-- A step with the reset input not asserted is the work of the core. -/
theorem step_work {s : State} (h : s.resetAsserted = false) : step s = work s.tickReset := by
  simp only [step, cycle, resetInput_deasserted h]

/-- A step with the reset input asserted is a plain reset, or the same step cut short. -/
theorem step_reset {s : State} (h : s.resetAsserted = true) :
    step s = .next s.hardReset ∨
      ∃ m u, s.resetInput = .assertedDuring m ∧ work s.tickReset = .next u ∧ step s = .next (s.cutShort u m) := by
  rcases resetAsserted_cases h with hr | ⟨m, hr⟩
  · exact .inl (by simp only [step, cycle, hr])
  · cases hw : work s.tickReset with
    | next u => exact .inr ⟨m, u, hr, rfl, by simp only [step, cycle, hr, hw]⟩
    | fault r => exact .inl (by simp only [step, cycle, hr, hw])
    | refused r => exact .inl (by simp only [step, cycle, hr, hw])

/-- Everything a step that answers a next state can be: a reset, a step that a reset cuts short, or the work of the core. -/
theorem step_cases {s t : State} (h : step s = .next t) :
    (s.resetAsserted = true ∧ t = s.hardReset) ∨
      (s.resetAsserted = true ∧ ∃ m u, s.resetInput = .assertedDuring m ∧ work s.tickReset = .next u ∧
        t = s.cutShort u m) ∨
      (s.resetAsserted = false ∧ work s.tickReset = .next t) := by
  cases hr : s.resetAsserted with
  | true =>
    rcases step_reset hr with hs | ⟨m, u, hm, hu, hs⟩
    · rw [hs, Host.Outcome.next.injEq] at h
      exact .inl ⟨rfl, h.symm⟩
    · rw [hs, Host.Outcome.next.injEq] at h
      exact .inr (.inl ⟨rfl, m, u, hm, hu, h.symm⟩)
  | false => exact .inr (.inr ⟨rfl, by rw [← step_work hr]; exact h⟩)

end Sys2Proof.Machine
end

