-- ==== Sys2Proof/Laws/PerInstr.lean ====
section
/-! SUPPORT. Statements made of every command as syntax, one lemma per constructor of Instr. -/

namespace Sys2Proof.Laws.Encoding

/-- The command's word is one of the twelve legal words, and its two fields are the opcode and the flags of R61
and R62. -/
def Statement (i : Instr) : Prop :=
  isLegalWord (encode i) = true ∧ opField (encode i) = i.opcode ∧ flField (encode i) = i.flags

theorem mix64 : Statement .mix64 := by unfold Statement; decide
theorem tseed : Statement .tseed := by unfold Statement; decide
theorem reseed (sv iv : Bool) : Statement (.reseed sv iv) := by
  unfold Statement
  revert sv iv
  decide
theorem setsid : Statement .setsid := by unfold Statement; decide
theorem next64 : Statement .next64 := by unfold Statement; decide
theorem randbits : Statement .randbits := by unfold Statement; decide
theorem ubelow : Statement .ubelow := by unfold Statement; decide
theorem range (inc : Bool) : Statement (.range inc) := by
  unfold Statement
  revert inc
  decide

end Sys2Proof.Laws.Encoding
end

