-- ==== Sys2Proof/Laws/Sampler.lean ====
section
/-! SUPPORT. What a draw, a step of the rejection loop and a whole command can do, said once. A proof about a command
takes the equation of its case from here; `next_inj` then gives the state reached without unfolding the mixer. -/

namespace Sys2Proof.Machine

theorem next_inj {s t : State} (h : (Host.Outcome.next s : Host.Outcome State Fault Refusal) = .next t) : s = t :=
  (Host.Outcome.next.injEq _ _).mp h

theorem execNext64_eq (s : State) : exec .next64 s = .next ((nextU64 s).2.respondWord (nextU64 s).1) := rfl

/-- RANDBITS draws, or raises the status of its operand check (R125). -/
theorem execRandbits_cases (s : State) :
    (statusRandbits s.params.opw s.opA = .ok ∧
      exec .randbits s = .next ((randbits s.opA.toNat s).2.respondOk (randbits s.opA.toNat s).1)) ∨
    (statusRandbits s.params.opw s.opA ≠ .ok ∧
      exec .randbits s = .next (s.raise (statusRandbits s.params.opw s.opA))) := by
  by_cases h : statusRandbits s.params.opw s.opA = .ok
  · exact .inl ⟨h, by simp only [exec, execRandbits]; rw [if_pos h]⟩
  · exact .inr ⟨h, by simp only [exec, execRandbits]; rw [if_neg h]⟩

/-- UBELOW begins its loop, or raises INVALID_ARGUMENT (R142). -/
theorem execUbelow_cases (s : State) :
    (0 < s.opA ∧ exec .ubelow s = .next (startSampling s.opA.toNat 0 s)) ∨
      (s.opA ≤ 0 ∧ exec .ubelow s = .next (s.raise .invalidArgument)) := by
  by_cases h : s.opA ≤ 0
  · have hst : statusUbelow s.opA = .invalidArgument := by unfold statusUbelow; rw [if_pos h]
    exact .inr ⟨h, by simp only [exec, execUbelow]; rw [if_neg (by rw [hst]; decide), hst]⟩
  · have hst : statusUbelow s.opA = .ok := by unfold statusUbelow; rw [if_neg h]
    exact .inl ⟨by omega, by simp only [exec, execUbelow]; rw [if_pos hst]⟩

/-- RANGE begins its loop, or raises INVALID_RANGE (R144). -/
theorem execRange_cases (inc : Bool) (s : State) :
    (0 < rangeSize s.opA s.opB inc ∧
      exec (.range inc) s = .next (startSampling (rangeSize s.opA s.opB inc).toNat s.opA s)) ∨
      (rangeSize s.opA s.opB inc ≤ 0 ∧ exec (.range inc) s = .next (s.raise .invalidRange)) := by
  by_cases h : rangeSize s.opA s.opB inc ≤ 0
  · have hst : statusRange (rangeSize s.opA s.opB inc) = .invalidRange := by unfold statusRange; rw [if_pos h]
    exact .inr ⟨h, by simp only [exec, execRange]; rw [if_neg (by rw [hst]; decide), hst]⟩
  · have hst : statusRange (rangeSize s.opA s.opB inc) = .ok := by unfold statusRange; rw [if_neg h]
    exact .inl ⟨by omega, by simp only [exec, execRange]; rw [if_pos hst]⟩

theorem runSampling_some {s t : State} {p : Sampling} {r : Nat} (h : drawLoop s.drawBudget p s = (some r, t)) :
    runSampling p s = t.respondOk (p.base + r) := by
  unfold runSampling
  rw [h]

theorem runSampling_none {s t : State} {p : Sampling} (h : drawLoop s.drawBudget p s = (none, t)) :
    runSampling p s = t.keepSampling p := by
  unfold runSampling
  rw [h]

/-- The response of a step of the loop, and whether the command stays in progress. -/
theorem runSampling_response (p : Sampling) (s : State) :
    ((∃ r, r < p.n ∧ (runSampling p s).response = some ⟨.ok, some (p.base + r)⟩) ∧ (runSampling p s).sampling = none) ∨
      ((runSampling p s).response = none ∧ (runSampling p s).sampling = some p) := by
  rcases runSampling_cases p s with ⟨r, t, -, hr, h⟩ | ⟨t, -, h⟩
  · exact .inl ⟨⟨r, hr, by rw [h]; rfl⟩, by rw [h]; rfl⟩
  · exact .inr ⟨by rw [h]; rfl, by rw [h]; rfl⟩

/-! Drawing reads STATE, STREAM and the clock only. -/

/-- The same state with other values in the fields no draw looks at. -/
def State.withOthers (s : State) (sm : Option Sampling) (r : Option Response) (a b : Int) (rp : List ResetInput)
    (n : Nat) : State :=
  { s with sampling := sm, response := r, opA := a, opB := b, resetPort := rp, drawBudget := n }

theorem nextU64_withOthers (s : State) (sm : Option Sampling) (r : Option Response) (a b : Int) (rp : List ResetInput)
    (n : Nat) :
    nextU64 (s.withOthers sm r a b rp n) = ((nextU64 s).1, (nextU64 s).2.withOthers sm r a b rp n) := by
  by_cases h : s.stateReg = 0#64
  · rw [nextU64_sentinel s h, nextU64_sentinel (s.withOthers sm r a b rp n) h]; rfl
  · rw [nextU64_initialised s h, nextU64_initialised (s.withOthers sm r a b rp n) h]; rfl

theorem randLoop_withOthers (f rem acc : Nat) (s : State) (sm : Option Sampling) (r : Option Response) (a b : Int)
    (rp : List ResetInput) (n : Nat) :
    randLoop f rem acc (s.withOthers sm r a b rp n) =
      ((randLoop f rem acc s).1, (randLoop f rem acc s).2.withOthers sm r a b rp n) := by
  induction f generalizing rem acc s with
  | zero => rfl
  | succ f ih =>
    simp only [randLoop]
    split
    · rfl
    · simp only [nextU64_withOthers, ih]

theorem randbits_withOthers (k : Nat) (s : State) (sm : Option Sampling) (r : Option Response) (a b : Int)
    (rp : List ResetInput) (n : Nat) :
    randbits k (s.withOthers sm r a b rp n) = ((randbits k s).1, (randbits k s).2.withOthers sm r a b rp n) :=
  randLoop_withOthers _ _ _ s sm r a b rp n

theorem drawLoop_withOthers (f : Nat) (p : Sampling) (s : State) (sm : Option Sampling) (r : Option Response)
    (a b : Int) (rp : List ResetInput) (n : Nat) :
    drawLoop f p (s.withOthers sm r a b rp n) = ((drawLoop f p s).1, (drawLoop f p s).2.withOthers sm r a b rp n) := by
  induction f generalizing s with
  | zero => rfl
  | succ f ih =>
    simp only [drawLoop, randbits_withOthers]
    split
    · rfl
    · exact ih _

/-! The words a draw takes, and their clock samples. -/

/-- A word samples the clock once when it starts from the sentinel, and otherwise not (R122). -/
theorem nextWord_clock (s : State) :
    (nextWord s).clockSamples = s.clockSamples + (if s.stateReg = 0#64 then 1 else 0) ∧
      (nextWord s).timePort = s.timePort.drop (if s.stateReg = 0#64 then 1 else 0) := by
  unfold nextWord
  by_cases h : s.stateReg = 0#64
  · rw [nextU64_sentinel s h, if_pos h]
    exact ⟨rfl, List.drop_one.symm⟩
  · rw [nextU64_initialised s h, if_neg h]
    exact ⟨rfl, rfl⟩

theorem lazySeeds_zero (s : State) : lazySeeds 0 s = 0 := rfl

theorem lazySeeds_succ (m : Nat) (s : State) :
    lazySeeds (m + 1) s = lazySeeds m s + (if (nextWord^[m] s).stateReg = 0#64 then 1 else 0) := by
  simp only [lazySeeds, List.range_succ, List.countP_append, List.countP_singleton, beq_iff_eq]

/-- `m` words sample the clock once for each that starts from the sentinel. -/
theorem words_clock (m : Nat) (s : State) :
    (nextWord^[m] s).clockSamples = s.clockSamples + lazySeeds m s ∧
      (nextWord^[m] s).timePort = s.timePort.drop (lazySeeds m s) := by
  induction m with
  | zero => exact ⟨rfl, rfl⟩
  | succ m ih =>
    obtain ⟨hc, ht⟩ := nextWord_clock (nextWord^[m] s)
    rw [Function.iterate_succ_apply', hc, ht, ih.1, ih.2, lazySeeds_succ, Nat.add_assoc, List.drop_drop]
    exact ⟨rfl, rfl⟩

theorem randLoop_words (fuel rem r : Nat) (s : State) (h : fuel = wordsFor rem) :
    (randLoop fuel rem r s).2 = nextWord^[fuel] s := by
  induction fuel generalizing rem r s with
  | zero => rfl
  | succ f ih =>
    have hrem : rem ≠ 0 := by rintro rfl; simp [wordsFor] at h
    simp only [randLoop, if_neg hrem]
    rw [ih _ _ _ (by simp only [wordsFor] at h ⊢; omega), Function.iterate_succ_apply, nextWord]

/-- A draw of `k` bits takes `ceil(k/64)` words (R127). -/
theorem randbits_words (k : Nat) (s : State) : (randbits k s).2 = nextWord^[wordsFor k] s :=
  randLoop_words _ _ _ s rfl

/-- Every step of a loop makes some number of draws: `drawsMade` shuts no step out. -/
theorem drawsMade_exists (p : Sampling) (s : State) : ∃ d, drawsMade d p s := by
  have key : ∀ b, ∃ d, d ≤ b ∧ (∀ e, e < d → (drawLoop e p s).1 = none) ∧ (d = b ∨ (drawLoop d p s).1 ≠ none) := by
    intro b
    induction b with
    | zero => exact ⟨0, Nat.le_refl _, fun e h => absurd h (Nat.not_lt_zero e), .inl rfl⟩
    | succ b ih =>
      obtain ⟨d, hd, hn, hs⟩ := ih
      by_cases h : (drawLoop d p s).1 = none
      · have hb : d = b := hs.resolve_right fun hne => hne h
        subst hb
        refine ⟨d + 1, Nat.le_refl _, fun e he => ?_, .inl rfl⟩
        rcases Nat.lt_succ_iff_lt_or_eq.mp he with he | rfl
        · exact hn e he
        · exact h
      · exact ⟨d, Nat.le_succ_of_le hd, hn, .inr h⟩
  exact key s.drawBudget

/-! What a command can change. -/

/-- The fields a command can write: the registers, the response, the command in progress and the clock's two. -/
def Ran (s t : State) : Prop :=
  ∃ v w r sm m, t = { s with
    stateReg := v, streamReg := w, response := r, sampling := sm
    timePort := s.timePort.drop m, clockSamples := s.clockSamples + m }

theorem Drawn.ran {s t : State} (h : Drawn s t) (r : Option Response) (sm : Option Sampling) :
    Ran s { t with response := r, sampling := sm } := by
  obtain ⟨v, m, rfl⟩ := h
  exact ⟨v, _, r, sm, m, rfl⟩

theorem runSampling_ran (p : Sampling) (s : State) : Ran s (runSampling p s) := by
  have hD := drawLoop_drawn s.drawBudget p s
  rcases h : drawLoop s.drawBudget p s with ⟨_ | w, t⟩
  · rw [runSampling_none h]
    rw [h] at hD
    exact Drawn.ran hD _ _
  · rw [runSampling_some h]
    rw [h] at hD
    exact Drawn.ran hD _ _

theorem raise_ran (s : State) (st : Status) : Ran s (s.raise st) :=
  ⟨s.stateReg, s.streamReg, some ⟨st, none⟩, none, 0, rfl⟩

end Sys2Proof.Machine
end

