-- ==== Sys2Proof/Tests/Slice0.lean ====
section
/-! SUPPORT. Tests and witnesses. The expected values are those of spec/95_test_vectors.md (the vector's name stands in
each comment) or are written out by hand from the encoding tables of 30_encoding.md. -/

namespace Sys2Proof.Tests

open Sys2Proof Sys2Proof.Machine

-- One thread: the tests are many small kernel evaluations, and each would hold a thread of its own.
set_option Elab.async false

/-! ## Helpers -/

/-- The reading `CLK0` of 95_test_vectors.md. -/
def clk0 : ClockReading := ⟨2026, 11, 10, 14, 22, 5, 123⟩

/-- The state `S0` of 95_test_vectors.md. -/
def s0 : Word := 0x283C0E7D791D0A5D#64

/-- A core at reset but for its STATE, with one command on its port and one clock reading. -/
def demo (st : Word) (cmd : CmdWord) (a b : Int) : State :=
  { State.reset with stateReg := st, timePort := [clk0], commands := [⟨cmd, a, b⟩] }

/-- The same core running the command: the operands stand on their ports. -/
def running (st : Word) (a b : Int) : State :=
  { State.reset with stateReg := st, timePort := [clk0], opA := a, opB := b }

/-- What a step leaves: STATE, STREAM, the response, and how often the clock was sampled. -/
def leaves (s : State) : Option (Word × Word × Option Response × Nat) :=
  match step s with
  | .next t => some (t.stateReg, t.streamReg, t.response, t.clockSamples)
  | _ => none

/-- The result of a step that leaves an initialised state without a clock sample. -/
def okState (st sm : Word) (v : Int) : Option (Word × Word × Option Response × Nat) :=
  some (st, sm, some ⟨.ok, some v⟩, 0)

/-- The result of a step that answers an error from STATE `st` and STREAM 0. -/
def errState (st : Word) (e : Status) : Option (Word × Word × Option Response × Nat) :=
  some (st, 0#64, some ⟨e, none⟩, 0)

/-! ## Decoding, on words written bit by bit from R60 to R62: OP in the high nibble, FL in the low one -/

theorem test_decode_mix64 : decode 0b00010000#8 = .ok .mix64 := by decide
theorem test_decode_tseed : decode 0b00100000#8 = .ok .tseed := by decide
theorem test_decode_reseed_time : decode 0b00110000#8 = .ok (.reseed false false) := by decide
theorem test_decode_reseed_sv : decode 0b00110001#8 = .ok (.reseed true false) := by decide
theorem test_decode_reseed_iv : decode 0b00110010#8 = .ok (.reseed false true) := by decide
theorem test_decode_reseed_both : decode 0b00110011#8 = .ok (.reseed true true) := by decide
theorem test_decode_setsid : decode 0b01000000#8 = .ok .setsid := by decide
theorem test_decode_next64 : decode 0b01010000#8 = .ok .next64 := by decide
theorem test_decode_randbits : decode 0b01100000#8 = .ok .randbits := by decide
theorem test_decode_ubelow : decode 0b01110000#8 = .ok .ubelow := by decide
theorem test_decode_range_exclusive : decode 0b10000000#8 = .ok (.range false) := by decide
theorem test_decode_range_inclusive : decode 0b10000001#8 = .ok (.range true) := by decide

/-- E1, E3 (R68): the reserved opcodes, with any flags. -/
theorem test_decode_reserved_opcode :
    ∀ w ∈ [0x00#8, 0x0F#8, 0x90#8, 0xA0#8, 0xB7#8, 0xC0#8, 0xD0#8, 0xE0#8, 0xF0#8, 0xFF#8],
      decode w = .error .reservedOpcode := by decide

/-- E4 (R69): the reserved flag bits of every assigned opcode. -/
theorem test_decode_reserved_flag :
    ∀ w ∈ [0x11#8, 0x28#8, 0x34#8, 0x38#8, 0x41#8, 0x52#8, 0x61#8, 0x74#8, 0x82#8, 0x83#8, 0x88#8],
      decode w = .error .reservedFlag := by decide

/-- R62: the twelve words of the list decode, and no other does. -/
theorem test_decode_exactly_the_legal_words :
    ∀ w : CmdWord, isLegalWord w = (decode w).toOption.isSome := by decide +kernel

/-- The table's numbering: one byte, nothing beyond it. -/
theorem test_decode_table_word :
    decodeTableWord 8 0x81 = some (.range true) ∧ decodeTableWord 8 0x82 = none ∧ decodeTableWord 16 0x10 = none := by
  decide

/-! ## Well-formedness refuses what is ill-formed -/

theorem test_wf_word : isLegalWord 0x11#8 = false ∧ isLegalWord 0x00#8 = false ∧ isLegalWord 0x33#8 = true := by decide
theorem test_wf_width : (OperandWidth.bits 64).wf = false ∧ (OperandWidth.bits 65).wf = true ∧
    OperandWidth.inf.wf = true := by decide
theorem test_wf_params : Params.wf ⟨.bits 64, .bitlen⟩ = false ∧ Params.wf ⟨.bits 65, .bitlen⟩ = true := by decide
theorem test_wf_operand_a : Command.presentable (.bits 65) ⟨0x10, 18446744073709551616, 0⟩ = false ∧
    Command.presentable (.bits 65) ⟨0x10, 18446744073709551615, 0⟩ = true := by decide
theorem test_wf_operand_b : Command.presentable (.bits 65) ⟨0x33, 0, -18446744073709551617⟩ = false ∧
    Command.presentable (.bits 65) ⟨0x33, 0, -18446744073709551616⟩ = true := by decide

/-! ## The commands: one step each -/

/-- MX5. -/
theorem test_mix64 : leaves (demo 0 0x10 12345 0) = okState 0 0 0xF36CF1164265DD51 := by decide +kernel
/-- MX8: `mod64(-1)`; E14: B is ignored. -/
theorem test_mix64_negative : leaves (demo s0 0x10 (-1) 999) = okState s0 0 0xB4D055FCF2CBBD7B := by decide +kernel

/-- T1. -/
theorem test_tseed : leaves (demo s0 0x20 0 0) = some (s0, 0#64, some ⟨.ok, some 0x73CCE90DD0CDBCA0⟩, 1) := by
  decide +kernel
/-- T4: the greatest reading. -/
theorem test_tseed_greatest :
    leaves { demo 0 0x20 0 0 with timePort := [⟨16383, 15, 31, 31, 63, 63, 1023⟩] } =
      some (0#64, 0#64, some ⟨.ok, some 0xB52E9FFDDAA9D4A1⟩, 1) := by decide +kernel

/-- T11: both flags. T17: an identifier and a time-based seed. -/
theorem test_reseed :
    leaves (demo 0 0x33 12345 1) = okState s0 1 0x283C0E7D791D0A5D ∧
      leaves (demo 0 0x32 0 7) =
        some (0xD7CD72FCBFFFE2F8#64, 7#64, some ⟨.ok, some 0xD7CD72FCBFFFE2F8⟩, 1) := by decide +kernel
/-- T16: the zero remap on a time-based seed. -/
theorem test_reseed_remap :
    leaves { demo s0 0x30 0 0 with timePort := [⟨0, 0, 0, 0, 0, 0, 0⟩] } =
      some (1#64, 0#64, some ⟨.ok, some 1⟩, 1) := by decide +kernel

/-- T18. -/
theorem test_setsid :
    leaves (demo 0 0x40 7 0) = some (0xD7CD72FCBFFFE2F8#64, 7#64, some ⟨.ok, none⟩, 1) := by decide +kernel
/-- B3: the advance wraps. -/
theorem test_next64_wraps :
    leaves (demo 0xFFFFFFFFFFFFFFFF 0x50 0 0) = okState 0x9E3779B97F4A7C14 0 0xE4D971771B652C20 := by decide +kernel
/-- B4: the lazy seed. -/
theorem test_next64_lazy :
    leaves (demo 0 0x50 0 0) = some (0xF980F26D7497EE46#64, 0#64, some ⟨.ok, some 0xAE172F4FB7C44DE5⟩, 1) := by
  decide +kernel

/-- Section 2.4: the sentinel is reached inside the command, and the second word is drawn after a lazy seed. B20: most
significant chunk first, the top bits of the last word. -/
theorem test_randbits :
    leaves (demo 0x61C8864680B583EB 0x60 100 0) =
        some (0xF980F26D7497EE46#64, 0#64, some ⟨.ok, some 0xAE172F4FB⟩, 1) ∧
      leaves (demo s0 0x60 100 0) = okState 0x64AB01F077B20287 0 0x858E4C6F68A07F0F515454D32 := by decide +kernel

/-- UB8: one rejected draw. K3: under BITLEN 4 is rejected and 2 accepted. -/
theorem test_ubelow :
    leaves (demo s0 0x70 65 0) = okState 0x64AB01F077B20287 0 40 ∧
      leaves { demo s0 0x70 4 0 with params := ⟨.bits 128, .bitlen⟩ } = okState 0x64AB01F077B20287 0 2 := by
  decide +kernel

/-- RG8: a negative result. RG14: the whole port, whose size `2^128` does not fit the port. -/
theorem test_range :
    leaves (demo s0 0x80 (-10) (-3)) = okState 0xC6738836F8678672 0 (-6) ∧
      leaves (demo s0 0x81 (-170141183460469231731687303715884105728) 170141183460469231731687303715884105727) =
        okState 0x64AB01F077B20287 0 7384996422672910673727174301442106109 := by decide +kernel

/-! ## Errors (section 2.8) -/

/-- E1, E6: a reserved word is ILLEGAL whatever its operands. -/
theorem test_illegal :
    leaves (demo 0 0x00 123 (-7)) = errState 0 .illegal ∧ leaves (demo s0 0x61 (-1) 0) = errState s0 .illegal := by
  decide +kernel
/-- E5, E7. -/
theorem test_randbits_errors :
    leaves (demo 0 0x60 (-1) 0) = errState 0 .invalidArgument ∧ leaves (demo s0 0x60 128 0) = errState s0 .capacity := by
  decide +kernel
/-- E9. -/
theorem test_ubelow_error : leaves (demo 0 0x70 0 0) = errState 0 .invalidArgument := by decide +kernel
/-- E11, E13: the size is exact, it does not wrap. -/
theorem test_range_errors :
    leaves (demo 0 0x80 5 5) = errState 0 .invalidRange ∧
      leaves (demo s0 0x81 170141183460469231731687303715884105727 (-170141183460469231731687303715884105728)) =
        errState s0 .invalidRange := by decide +kernel
/-- R66: the codes. -/
theorem test_status_codes :
    [Status.ok, .invalidArgument, .invalidRange, .illegal, .capacity].map Status.code = [0, 1, 2, 3, 4] := by decide

/-! ## Reset -/

/-- U14: a command cut by a reset gives no response, and afterwards the core is in the reset state; here the command has
written STATE and STREAM, and the reset falls before or after its one clock sample. -/
theorem test_reset_during_setsid :
    leaves { demo s0 0x40 7 0 with resetPort := [.assertedDuring 0] } = some (0#64, 0#64, none, 0) ∧
      leaves { demo s0 0x40 7 0 with resetPort := [.assertedDuring 1] } = some (0#64, 0#64, none, 1) := by decide +kernel
/-- U14, R210: MIX64, which samples no clock, cut short by a reset; and a reset before it is taken. -/
theorem test_reset_during_mix64 :
    leaves { demo s0 0x10 12345 0 with resetPort := [.assertedDuring 3] } = some (0#64, 0#64, none, 0) ∧
      leaves { demo s0 0x10 12345 0 with resetPort := [.asserted] } = some (0#64, 0#64, none, 0) := by decide +kernel

/-! ## The placing of a command -/

theorem test_placed_mix64 : leaves (State.reset.withFetchWord 8 0x10) = okState 0 0 0 := by decide +kernel
theorem test_placed_range : leaves (State.reset.withFetchWord 8 0x81) = okState 0 0 0 := by decide +kernel
theorem test_placed_reserved : leaves (State.reset.withFetchWord 8 0x82) = errState 0 .illegal := by decide +kernel

/-! ## Assembler and host software -/

/-- Section 3, and R72: a line as text. -/
theorem test_assembler_text :
    assembleProgram (.bits 128) ["RESEED 12345, 1 ; golden".toList, "RESEED -, 7".toList, "RAND64".toList] =
      .ok [⟨0x33, 12345, 1⟩, ⟨0x32, 0, 7⟩, ⟨0x60, 64, 0⟩] := by decide +kernel
/-- S4, S9 (R162, R168): the precision is read off the text. -/
theorem test_host_decimal :
    (timeBasedRandom (.text "0.000".toList) (.text "0.999".toList)).plan = .ok ⟨.rangeI 0 999, some 3⟩ := by decide +kernel

/-! ## Witnesses: for every statement with hypotheses, data that meets all of them together -/

/-- The state a command reaches. -/
def ranTo (i : Instr) (s : State) : State :=
  match exec i s with
  | .next t => t
  | _ => s

theorem exec_ranTo (i : Instr) (s : State) : exec i s = .next (ranTo i s) := by
  obtain ⟨t, h⟩ := exec_next i s
  rw [ranTo, h]

/-- The state a step reaches. -/
def stepTo (s : State) : State :=
  match step s with
  | .next t => t
  | _ => s

theorem step_stepTo {s : State} (h : (leaves s).isSome = true) : step s = .next (stepTo s) := by
  unfold leaves at h
  unfold stepTo
  cases hs : step s <;> simp [hs] at h ⊢

/-- A core with a rejection loop in progress whose next draw at `s0` is 66 of 7 bits, `b` draws a step. -/
def busy (n b : Nat) : State :=
  { State.reset with stateReg := s0, sampling := some ⟨n, 7, 0⟩, drawBudget := b }

theorem witness_ResetAbandonsTheCommand_reset :
    { busy 65 1 with resetPort := [.asserted] }.resetPort = .asserted :: [] := rfl
theorem witness_ResetAbandonsTheCommand_reset_in_progress :
    { busy 65 1 with resetPort := [.asserted] }.sampling = some ⟨65, 7, 0⟩ ∧
      step { busy 65 1 with resetPort := [.asserted] } = .next (stepTo { busy 65 1 with resetPort := [.asserted] }) ∧
      { busy 65 1 with resetPort := [.asserted] }.resetAsserted = true := ⟨rfl, step_stepTo (by decide +kernel), rfl⟩
theorem witness_ResetAbandonsTheCommand_during :
    { demo 0 0x50 0 0 with resetPort := [.assertedDuring 0] }.resetPort = .assertedDuring 0 :: [] ∧
      step { demo 0 0x50 0 0 with resetPort := [.deasserted] } =
        .next (stepTo { demo 0 0x50 0 0 with resetPort := [.deasserted] }) ∧
      { demo 0 0x50 0 0 with resetPort := [.assertedDuring 0] }.resetAsserted = true :=
  ⟨rfl, step_stepTo (by decide +kernel), rfl⟩
theorem witness_ResetAbandonsTheCommand_during_refused :
    step { demo s0 0x10 170141183460469231731687303715884105728 0 with resetPort := [.deasserted] } =
      .refused .operandNotPresentable := rfl
theorem witness_ResetAbandonsTheCommand_rejected :
    (busy 66 1).sampling = some ⟨66, 7, 0⟩ ∧ step (busy 66 1) = .next (stepTo (busy 66 1)) ∧
      (stepTo (busy 66 1)).sampling = some ⟨66, 7, 0⟩ ∧ (stepTo (busy 66 1)).response = none :=
  ⟨rfl, step_stepTo (by decide +kernel), by decide +kernel, by decide +kernel⟩
theorem witness_ResetAbandonsTheCommand_accepted :
    (busy 67 1).sampling = some ⟨67, 7, 0⟩ ∧ step (busy 67 1) = .next (stepTo (busy 67 1)) ∧
      (stepTo (busy 67 1)).sampling = none ∧ (stepTo (busy 67 1)).response = some ⟨.ok, some 66⟩ :=
  ⟨rfl, step_stepTo (by decide +kernel), by decide +kernel, by decide +kernel⟩

theorem witness_StepRunsThePresentedCommand :
    (demo 0 0x33 12345 1).Presents ⟨0x33, 12345, 1⟩ [] ∧
      Command.presentable (demo 0 0x33 12345 1).params.opw ⟨0x33, 12345, 1⟩ = true ∧
      decode 0x33#8 = .ok (.reseed true true) := by decide +kernel

theorem witness_ReservedWordsAnswerIllegal :
    ∀ w ∈ [0x00#8, 0x0F#8, 0x11#8, 0x34#8, 0x82#8, 0x8F#8, 0x90#8, 0xFF#8],
      (demo s0 w 1 2).Presents ⟨w, 1, 2⟩ [] ∧ Command.presentable (demo s0 w 1 2).params.opw ⟨w, 1, 2⟩ = true ∧
        w ∉ [0x10#8, 0x20#8, 0x30#8, 0x31#8, 0x32#8, 0x33#8, 0x40#8, 0x50#8, 0x60#8, 0x70#8, 0x80#8, 0x81#8] := by
  decide +kernel

theorem witness_IdleCoreKeepsItsRegisters :
    State.reset.resetAsserted = false ∧ State.reset.sampling = none ∧ State.reset.commands = [] := by decide

theorem witness_OversizeOperandsAreRefused :
    (demo s0 0x10 170141183460469231731687303715884105728 0).Presents
        ⟨0x10, 170141183460469231731687303715884105728, 0⟩ [] ∧
      ¬((demo s0 0x10 170141183460469231731687303715884105728 0).params.opw.fits
            170141183460469231731687303715884105728 = true ∧
          (demo s0 0x10 170141183460469231731687303715884105728 0).params.opw.fits 0 = true) := by decide +kernel

theorem witness_EveryStepKeepsTheInvariant :
    CoreInv (busy 65 1) ∧ step (busy 65 1) = .next (stepTo (busy 65 1)) :=
  ⟨by decide +kernel, step_stepTo (by decide +kernel)⟩
theorem witness_EveryStepKeepsTheInvariant_command :
    CoreInv (demo s0 0x81 (-5) 5) ∧ step (demo s0 0x81 (-5) 5) = .next (stepTo (demo s0 0x81 (-5) 5)) :=
  ⟨by decide +kernel, step_stepTo (by decide +kernel)⟩

theorem witness_PortBitsCarryTheInteger :
    (1 ≤ 1 ∧ (OperandWidth.bits 1).fits (-1) = true ∧ portValue 1 (portBits 1 (-1)) = -1) ∧
      (1 ≤ 8 ∧ (OperandWidth.bits 8).fits 128 = false ∧ portValue 8 (portBits 8 128) ≠ 128) := by decide +kernel

theorem witness_MixerIsBijective : mix64 0#64 = 0#64 := by decide +kernel

theorem witness_SeedingRemapsZero :
    BitVec.ofInt 64 (running 0 5 5).opA = (if true then BitVec.ofInt 64 (running 0 5 5).opB else (running 0 5 5).streamReg) ∧
    BitVec.ofInt 64 (running 0 0 5).opA =
      (if false then BitVec.ofInt 64 (running 0 0 5).opB else (running 0 0 5).streamReg) := by decide +kernel

/-- The two identifiers 5 and 0x0CB974E665CEDC89 both leave STATE 1 with seed 5: 5 by the zero remap, the other because its
mix differs from that of 5 by the word that mixes to 1 (computed outside the model, by inverting the rounds of R91). -/
theorem witness_StreamsWithOneSeedDiffer :
    exec (.reseed true true) (running 0 5 5) = .next (ranTo (.reseed true true) (running 0 5 5)) ∧
      exec (.reseed true false) { running s0 5 0 with streamReg := 0x0CB974E665CEDC89 } =
        .next (ranTo (.reseed true false) { running s0 5 0 with streamReg := 0x0CB974E665CEDC89 }) ∧
      BitVec.ofInt 64 (running 0 5 5).opA =
        BitVec.ofInt 64 { running s0 5 0 with streamReg := 0x0CB974E665CEDC89 }.opA ∧
      (if true then BitVec.ofInt 64 (running 0 5 5).opB else (running 0 5 5).streamReg) ≠
        (if false then BitVec.ofInt 64 { running s0 5 0 with streamReg := 0x0CB974E665CEDC89 }.opB
          else { running s0 5 0 with streamReg := 0x0CB974E665CEDC89 }.streamReg) ∧
      (ranTo (.reseed true true) (running 0 5 5)).stateReg =
        (ranTo (.reseed true false) { running s0 5 0 with streamReg := 0x0CB974E665CEDC89 }).stateReg :=
  ⟨exec_ranTo _ _, exec_ranTo _ _, by decide +kernel, by decide +kernel, by decide +kernel⟩

/-- The core after SETSID `i`, with the seed 5 on operand port A. -/
def seeding (i : Int) : State := { ranTo .setsid (running 0 i 0) with opA := 5 }

theorem witness_StreamsWithOneSeedDiffer_setsid :
    exec .setsid { running 0 5 0 with opA := 5 } = .next (ranTo .setsid (running 0 5 0)) ∧
      exec (.reseed true false) (seeding 5) = .next (ranTo (.reseed true false) (seeding 5)) ∧
      exec .setsid { running 0 5 0 with opA := 0x0CB974E665CEDC89 } =
        .next (ranTo .setsid (running 0 0x0CB974E665CEDC89 0)) ∧
      exec (.reseed true false) (seeding 0x0CB974E665CEDC89) =
        .next (ranTo (.reseed true false) (seeding 0x0CB974E665CEDC89)) ∧
      BitVec.ofInt 64 5 ≠ BitVec.ofInt 64 0x0CB974E665CEDC89 ∧
      (ranTo (.reseed true false) (seeding 5)).stateReg =
        (ranTo (.reseed true false) (seeding 0x0CB974E665CEDC89)).stateReg :=
  ⟨exec_ranTo _ _, exec_ranTo _ _, exec_ranTo _ _, exec_ranTo _ _, by decide +kernel, by decide +kernel⟩

theorem witness_SameReadingSeedingsCollide :
    (running 0 7 7).reading = (running 0 7 8).reading ∧ (running 0 7 7).streamReg = (running 0 7 8).streamReg ∧
      BitVec.ofInt 64 (running 0 7 8).opA = BitVec.ofInt 64 (running 0 7 7).opB ∧
      (running 0 7 7).stateReg = 0#64 ∧ (running 0 7 8).stateReg = 0#64 := by decide +kernel

theorem witness_ExplicitSeedForgetsThePast :
    ((running 0 5 1).opA = (running s0 5 1).opA ∧
        (if true then (running 0 5 1).opB = (running s0 5 1).opB
          else (running 0 5 1).streamReg = (running s0 5 1).streamReg)) ∧
      (running 0 5 1).opA = (running s0 5 2).opA ∧
        (if false then (running 0 5 1).opB = (running s0 5 2).opB
          else (running 0 5 1).streamReg = (running s0 5 2).streamReg) := by decide +kernel

theorem witness_Next64Command : (running s0 0 0).stateReg ≠ 0#64 ∧ (running 0 0 0).stateReg = 0#64 := by decide +kernel

theorem witness_AdvanceCanReachTheSentinel :
    { running 0x61C8864680B583EB 128 0 with params := ⟨.bits 129, .ceilLog2⟩ }.stateReg = 0x61C8864680B583EB#64 ∧
      { running 0x61C8864680B583EB 128 0 with params := ⟨.bits 129, .ceilLog2⟩ }.opA = 128 ∧
      (OperandWidth.bits 129).overCapacity 128 = false := by decide +kernel

theorem witness_RandbitsErrors :
    (running s0 (-1) 0).opA < 0 ∧
      (running s0 128 0).params.opw = .bits 128 ∧ ((128 - 1 : Nat) : Int) < (running s0 128 0).opA := by decide +kernel

theorem witness_RandbitsZeroDrawsNothing : (running 0 0 0).opA = 0 := rfl

theorem witness_RandbitsCompletesBelowTwoPow :
    0 ≤ (running s0 127 0).opA ∧
      ∀ n, (running s0 127 0).params.opw = .bits n → (running s0 127 0).opA ≤ ((n - 1 : Nat) : Int) := by
  refine ⟨by decide, fun n h => ?_⟩
  cases h
  decide

theorem witness_RandbitsComposesTheWords :
    (running s0 100 0).opA = ((100 : Nat) : Int) ∧ (∀ n, (running s0 100 0).params.opw = .bits n → 100 ≤ n - 1) ∧
      ∀ j, j < (100 + 63) / 64 → (running s0 100 0).stateReg + BitVec.ofNat 64 j * 0x9E3779B97F4A7C15#64 ≠ 0#64 := by
  refine ⟨by decide, fun n h => ?_, by decide +kernel⟩
  cases h
  decide

theorem witness_Randbits64IsNext64 :
    (running s0 64 0).opA = 64 ∧ (running s0 64 0).params.opw.overCapacity 64 = false := by decide +kernel

theorem witness_DrawWidthsAreLeast :
    1 ≤ 1 ∧ (1 ≤ 2 ^ 0 ∧ 1 < 2 ^ 1 ∧ ∃ e, 1 = 2 ^ e) ∧ 1 ≤ 3 ∧ 3 ≤ 2 ^ 2 ∧ 3 < 2 ^ 2 ∧ ¬∃ e, 3 = 2 ^ e := by
  refine ⟨by decide, ⟨by decide, by decide, 0, rfl⟩, by decide, by decide, by decide, ?_⟩
  rintro ⟨_ | _ | e, h⟩
  · simp at h
  · simp at h
  · rw [Nat.pow_succ, Nat.pow_succ] at h
    omega

/-- After the 66 of UB8 the next draw is 40, whose top bit of 7 is 0. -/
theorem witness_DrawWithTopBitZeroIsAccepted :
    (running 0xC6738836F8678672 65 0).params.kRule = .ceilLog2 ∧ 2 ≤ (running 0xC6738836F8678672 65 0).opA ∧
      1 ≤ (running 0xC6738836F8678672 65 0).drawBudget ∧
      (randbits (klen .ceilLog2 65) (running 0xC6738836F8678672 65 0)).1 < 2 ^ (klen .ceilLog2 65 - 1) := by decide +kernel

theorem witness_UbelowErrors : (running s0 0 0).opA ≤ 0 ∧ (running s0 (-3) 0).opA ≤ 0 := by decide +kernel

theorem witness_UbelowDrawsUntilBelow :
    (1 ≤ (running s0 67 0).opA ∧ (running s0 67 0).drawBudget = 18446744073709551615 + 1 ∧
        ((randbits 7 (running s0 67 0)).1 : Int) < (running s0 67 0).opA) ∧
      1 ≤ (running s0 66 0).opA ∧ (running s0 66 0).drawBudget = 18446744073709551615 + 1 ∧
        (running s0 66 0).opA ≤ ((randbits 7 (running s0 66 0)).1 : Int) ∧
        klen .ceilLog2 66 = 7 ∧ klen .ceilLog2 67 = 7 := by decide +kernel
theorem witness_UbelowDrawsUntilBelow_next (t : State) : ∃ u, exec .ubelow t = .next u := exec_next _ t

theorem witness_UbelowOfPowerOfTwo :
    ((running s0 18446744073709551616 0).params.kRule = .ceilLog2 ∧
        (running s0 18446744073709551616 0).opA = 2 ^ 64 ∧ 1 ≤ (running s0 18446744073709551616 0).drawBudget) ∧
      (running s0 1 0).opA = 2 ^ 0 := by decide +kernel

theorem witness_OneValueRanges :
    (running s0 1 1).params.kRule = .ceilLog2 ∧ 1 ≤ (running s0 1 1).drawBudget ∧ (running s0 1 1).opA = 1 ∧
      (running s0 1 1).opA = (running s0 1 1).opB ∧
      (ranTo .ubelow (running s0 1 1)).response = some ⟨.ok, some 0⟩ ∧
      exec .ubelow (running s0 1 1) = .next (ranTo .ubelow (running s0 1 1)) ∧
      (ranTo (.range true) (running s0 1 1)).response = some ⟨.ok, some 1⟩ ∧
      exec (.range true) (running s0 1 1) = .next (ranTo (.range true) (running s0 1 1)) :=
  ⟨by decide +kernel, by decide +kernel, by decide +kernel, by decide +kernel, by decide +kernel, exec_ranTo _ _,
    by decide +kernel, exec_ranTo _ _⟩

theorem witness_RangeErrors :
    (exec (.range true) (running s0 5 4) = .next (ranTo (.range true) (running s0 5 4)) ∧
        (running s0 5 4).opB < (running s0 5 4).opA) ∧
      (exec (.range true) (running s0 5 5) = .next (ranTo (.range true) (running s0 5 5)) ∧
        ¬(running s0 5 5).opB < (running s0 5 5).opA) ∧
      (exec (.range false) (running s0 5 5) = .next (ranTo (.range false) (running s0 5 5)) ∧
        (running s0 5 5).opB ≤ (running s0 5 5).opA) ∧
      exec (.range false) (running s0 5 6) = .next (ranTo (.range false) (running s0 5 6)) ∧
        ¬(running s0 5 6).opB ≤ (running s0 5 6).opA :=
  ⟨⟨exec_ranTo _ _, by decide⟩, ⟨exec_ranTo _ _, by decide⟩, ⟨exec_ranTo _ _, by decide⟩, exec_ranTo _ _, by decide⟩

theorem witness_RangeAddsTheDrawToMin :
    1 ≤ (running s0 (-5) 5).drawBudget ∧
      (0 < (running s0 (-5) 5).opB - (running s0 (-5) 5).opA + 1 ∧
        ((randbits (klen .ceilLog2 11) (running s0 (-5) 5)).1 : Int) < 11) ∧
      0 < (running s0 (-10) (-3)).opB - (running s0 (-10) (-3)).opA + 0 ∧
        ((randbits (klen .ceilLog2 7) (running s0 (-10) (-3))).1 : Int) < 7 := by decide +kernel

theorem witness_SampledValuesAreInRange :
    ((ranTo .ubelow (running s0 67 0)).response = some ⟨.ok, some 66⟩ ∧
        exec .ubelow (running s0 67 0) = .next (ranTo .ubelow (running s0 67 0))) ∧
      ((ranTo (.range true) (running s0 5 5)).response = some ⟨.ok, some 5⟩ ∧
        exec (.range true) (running s0 5 5) = .next (ranTo (.range true) (running s0 5 5))) ∧
      (ranTo (.range false) (running s0 (-10) (-3))).response = some ⟨.ok, some (-6)⟩ ∧
        exec (.range false) (running s0 (-10) (-3)) = .next (ranTo (.range false) (running s0 (-10) (-3))) :=
  ⟨⟨by decide +kernel, exec_ranTo _ _⟩, ⟨by decide +kernel, exec_ranTo _ _⟩, by decide +kernel, exec_ranTo _ _⟩

theorem witness_SampledValuesAreInRange_in_progress :
    (stepTo (busy 67 1)).response = some ⟨.ok, some 66⟩ ∧ (busy 67 1).sampling = some ⟨67, 7, 0⟩ ∧
      step (busy 67 1) = .next (stepTo (busy 67 1)) :=
  ⟨by decide +kernel, rfl, step_stepTo (by decide +kernel)⟩

theorem witness_UbelowIsRangeFromZero : (1 : Int) ≤ 1 := by decide

theorem witness_CommandsBeginTheSamplerLoop :
    (running s0 1 1).resetPort = [] ∧ 1 ≤ (running s0 1 1).opA ∧
      1 ≤ (running s0 1 1).opB - (running s0 1 1).opA + 1 ∧ 1 ≤ (running s0 (-1) 0).opB - (running s0 (-1) 0).opA + 0 := by
  decide +kernel

theorem witness_StepsAreTheRejectionLoop :
    (busy 66 1).sampling = some ⟨66, 7, 0⟩ ∧ (busy 66 1).response = none ∧ (busy 66 1).resetPort = [] ∧
      (drawLoop (1 * (busy 66 1).drawBudget) ⟨66, 7, 0⟩ (busy 66 1)).1 = none ∧
      (drawLoop (2 * (busy 66 1).drawBudget) ⟨66, 7, 0⟩ (busy 66 1)).1 = some 40 := by decide +kernel

theorem witness_ErrorResponsesChangeNothing :
    (step (demo s0 0x60 (-1) 0) = .next (stepTo (demo s0 0x60 (-1) 0)) ∧
        (stepTo (demo s0 0x60 (-1) 0)).response = some ⟨.invalidArgument, none⟩) ∧
      step (demo 0 0x00 0 0) = .next (stepTo (demo 0 0x00 0 0)) ∧
        (stepTo (demo 0 0x00 0 0)).response = some ⟨.illegal, none⟩ :=
  ⟨⟨step_stepTo (by decide +kernel), by decide +kernel⟩, step_stepTo (by decide +kernel), by decide +kernel⟩

theorem witness_OnlyReseedAndSetsidWriteStream :
    step (demo s0 0x40 7 0) = .next (stepTo (demo s0 0x40 7 0)) ∧
      (stepTo (demo s0 0x40 7 0)).streamReg ≠ (demo s0 0x40 7 0).streamReg :=
  ⟨step_stepTo (by decide +kernel), by decide +kernel⟩

theorem witness_WritersOfState :
    (step (demo s0 0x60 1 0) = .next (stepTo (demo s0 0x60 1 0)) ∧
        (stepTo (demo s0 0x60 1 0)).stateReg ≠ (demo s0 0x60 1 0).stateReg) ∧
      (step (demo s0 0x70 2 0) = .next (stepTo (demo s0 0x70 2 0)) ∧
        (stepTo (demo s0 0x70 2 0)).stateReg ≠ (demo s0 0x70 2 0).stateReg) ∧
      step (busy 65 1) = .next (stepTo (busy 65 1)) ∧ (stepTo (busy 65 1)).stateReg ≠ (busy 65 1).stateReg :=
  ⟨⟨step_stepTo (by decide +kernel), by decide +kernel⟩, ⟨step_stepTo (by decide +kernel), by decide +kernel⟩,
    step_stepTo (by decide +kernel), by decide +kernel⟩

theorem witness_OneResponsePerCommand :
    ((demo s0 0x50 0 0).Presents ⟨0x50, 0, 0⟩ [] ∧ step (demo s0 0x50 0 0) = .next (stepTo (demo s0 0x50 0 0))) ∧
      ({ demo s0 0x70 66 0 with drawBudget := 1 }.Presents ⟨0x70, 66, 0⟩ [] ∧
        step { demo s0 0x70 66 0 with drawBudget := 1 } = .next (stepTo { demo s0 0x70 66 0 with drawBudget := 1 }) ∧
        (stepTo { demo s0 0x70 66 0 with drawBudget := 1 }).sampling ≠ none) ∧
      (busy 66 1).sampling ≠ none ∧ (busy 66 1).resetAsserted = false ∧ step (busy 66 1) = .next (stepTo (busy 66 1)) :=
  ⟨⟨by decide +kernel, step_stepTo (by decide +kernel)⟩,
    ⟨by decide +kernel, step_stepTo (by decide +kernel), by decide +kernel⟩, by decide +kernel, by decide +kernel,
    step_stepTo (by decide +kernel)⟩

theorem witness_StepsConsumeTheInputsInOrder : step (demo 0 0x20 0 0) = .next (stepTo (demo 0 0x20 0 0)) :=
  step_stepTo (by decide +kernel)

theorem witness_NothingOfTheLastCommandIsKept :
    step (demo s0 0x10 170141183460469231731687303715884105728 0) = .refused .operandNotPresentable ∧
      step (demo s0 0x10 1 0) = .next (stepTo (demo s0 0x10 1 0)) ∧
      (demo s0 0x10 1 0).commands = ⟨0x10, 1, 0⟩ :: [] ∧ (stepTo (demo s0 0x10 1 0)).commands = [] :=
  ⟨rfl, step_stepTo (by decide +kernel), rfl, by decide +kernel⟩
theorem witness_NothingOfTheLastCommandIsKept_cut_short :
    step { demo s0 0x10 1 0 with resetPort := [.assertedDuring 0] } =
        .next (stepTo { demo s0 0x10 1 0 with resetPort := [.assertedDuring 0] }) ∧
      (stepTo { demo s0 0x10 1 0 with resetPort := [.assertedDuring 0] }).commands = [] :=
  ⟨step_stepTo (by decide +kernel), by decide +kernel⟩
theorem witness_NothingOfTheLastCommandIsKept_no_command :
    step (busy 66 1) = .next (stepTo (busy 66 1)) ∧ (stepTo (busy 66 1)).commands = (busy 66 1).commands :=
  ⟨step_stepTo (by decide +kernel), by decide +kernel⟩

/-- The four statements whose hypothesis is that a command answers a next state: every command does, in every state. -/
theorem witness_commands_answer (i : Instr) : exec i (running s0 5 6) = .next (ranTo i (running s0 5 6)) :=
  exec_ranTo i _
theorem witness_UnusedOperandsAreIgnored :
    exec .mix64 (running s0 5 6) = .next (ranTo .mix64 (running s0 5 6)) ∧
      exec (.reseed false true) (running s0 5 6) = .next (ranTo (.reseed false true) (running s0 5 6)) :=
  ⟨exec_ranTo _ _, exec_ranTo _ _⟩

/-- Section 2.4: the second of the two words of RANDBITS 100 starts from the sentinel. -/
theorem witness_ClockSamplesOfTheDraws_randbits :
    exec .randbits (running 0x61C8864680B583EB 100 0) =
        .next (ranTo .randbits (running 0x61C8864680B583EB 100 0)) ∧
      (ranTo .randbits (running 0x61C8864680B583EB 100 0)).response = some ⟨.ok, some 0xAE172F4FB⟩ ∧
      lazySeeds ((100 + 63) / 64) (running 0x61C8864680B583EB 100 0) = 1 :=
  ⟨exec_ranTo _ _, by decide +kernel, by decide +kernel⟩

/-- UB8: UBELOW 65 makes two draws. RG1: RANGE.I 0, 10 makes one. -/
theorem witness_ClockSamplesOfTheDraws_ubelow :
    drawsMade 2 ⟨65, 7, 0⟩ { running s0 65 0 with drawBudget := 4 } ∧ klen .ceilLog2 65 = 7 ∧
      exec .ubelow { running s0 65 0 with drawBudget := 4 } =
        .next (ranTo .ubelow { running s0 65 0 with drawBudget := 4 }) :=
  ⟨by decide +kernel, by decide +kernel, exec_ranTo _ _⟩
theorem witness_ClockSamplesOfTheDraws_range :
    drawsMade 1 ⟨11, 4, 0⟩ (running s0 0 10) ∧ (1 : Int) ≤ 10 - 0 + 1 ∧ klen .ceilLog2 11 = 4 ∧
      exec (.range true) (running s0 0 10) = .next (ranTo (.range true) (running s0 0 10)) :=
  ⟨by decide +kernel, by decide, by decide +kernel, exec_ranTo _ _⟩
theorem witness_ClockSamplesOfTheDraws_in_progress :
    drawsMade 1 ⟨66, 7, 0⟩ (busy 66 1) ∧ (busy 66 1).resetAsserted = false ∧ (busy 66 1).sampling = some ⟨66, 7, 0⟩ ∧
      step (busy 66 1) = .next (stepTo (busy 66 1)) :=
  ⟨by decide +kernel, rfl, rfl, step_stepTo (by decide +kernel)⟩
theorem witness_ClockSamplesOfTheDraws_no_draw : drawsMade 0 ⟨66, 7, 0⟩ (busy 66 0) := by decide +kernel

/-- A run that meets the sentinel before its second word, and one begun from it. -/
theorem witness_RandbitsThroughTheSentinel :
    ((running 0x61C8864680B583EB 100 0).opA = ((100 : Nat) : Int) ∧
        ∀ n, (running 0x61C8864680B583EB 100 0).params.opw = .bits n → 100 ≤ n - 1) ∧
      (running 0 127 0).stateReg = 0#64 ∧ 0 < (running 0 127 0).opA ∧
        ∀ n, (running 0 127 0).params.opw = .bits n → (running 0 127 0).opA ≤ ((n - 1 : Nat) : Int) := by
  refine ⟨⟨by decide, fun n h => ?_⟩, by decide, by decide, fun n h => ?_⟩ <;> cases h <;> decide

theorem witness_DecimalScaling :
    ("50".toList.length ≤ 3 ∧ (DecimalText.mk true "1".toList "50".toList).scaled 3 = -1500) ∧
      (3 ≤ "5019".toList.length ∧ (DecimalText.mk true "1".toList "5019".toList).scaled 3 = -1501) ∧
      "501".toList.length ≤ 3 ∧ 3 ≤ "501".toList.length := by decide +kernel

end Sys2Proof.Tests
end

section
/-! PROOFS. The mixer and the command MIX64 (40_mixer.md rules R90 to R93), and the decoder on a word given as its two
fields (30_encoding.md rules R60 to R62). -/

namespace Sys2Proof

/-! ## The decoder on opcode and flags -/

@[simp] theorem opField_append (op fl : BitVec 4) : opField (op ++ fl) = op :=
  BitVec.extractLsb'_append_eq_left

@[simp] theorem flField_append (op fl : BitVec 4) : flField (op ++ fl) = fl :=
  BitVec.extractLsb'_append_eq_right

/-- An assigned opcode: only the must-be-zero flag bits are left to check (R69). -/
theorem decode_append_of_opcodeMap {op fl : BitVec 4} {i : Instr} (h : opcodeMap op fl = some i) :
    decode (op ++ fl) = if fl &&& mustBeZero op = 0 then .ok i else .error .reservedFlag := by
  simp [decode, h]

/-- A command without flags, all of whose flag bits must be 0: it has one word (R62). -/
theorem decode_append_of_no_flags {op fl : BitVec 4} {i : Instr} (h : opcodeMap op fl = some i)
    (hz : mustBeZero op = BitVec.allOnes 4) :
    decode (op ++ fl) = if fl = 0 then .ok i else .error .reservedFlag := by
  rw [decode_append_of_opcodeMap h, hz, BitVec.and_allOnes]

end Sys2Proof

namespace Sys2Proof.Machine

/-! ## The mixer and MIX64 -/

/-- Settles O14: the three named xor-shifts and two multipliers of the model are the five lines of R91. -/
theorem mixerRounds : Obligations.MixerRounds := by
  intro x
  simp only [mix64, xorShift, mixM1, mixM2]

theorem execMix64_eq (s : State) : exec .mix64 s = .next (s.respondWord (mix64 (mod64 s.opA))) := rfl

/-- Settles O16: the decoder's clause is that of a command without flags, and delivering the response is all that MIX64
does to the state. -/
theorem mix64Command : Obligations.Mix64Command := by
  refine ⟨fun fl => ?decodes, fun s => ?answers, ?vector⟩
  case decodes => exact decode_append_of_no_flags rfl (by decide)
  case answers => rw [execMix64_eq, respondWord_eq, State.respond, zext, mod64]
  case vector => decide

end Sys2Proof.Machine
end

section
/-! PROOFS. Seeding: the time code, and the commands TSEED, RESEED and SETSID (41_seeding.md rules R100 to R107). -/

namespace Sys2Proof

/-- The flag check of RESEED looks at bits 2 and 3 and at nothing else (R62, R69). -/
theorem reseed_flags_legal_iff (fl : BitVec 4) :
    fl &&& mustBeZero 0x3#4 = 0 ↔ ¬(fl.getLsbD 2 || fl.getLsbD 3) = true := by
  revert fl
  decide

end Sys2Proof

namespace Sys2Proof.Machine

/-! ## The time code -/

/-- The widths of R49 bound the weighted sum (R100). -/
theorem timeCode_le (r : ClockReading) : timeCode r ≤ 163831531316364023 := by
  have := r.year.isLt
  have := r.month.isLt
  have := r.day.isLt
  have := r.hour.isLt
  have := r.minute.isLt
  have := r.second.isLt
  have := r.msec.isLt
  unfold timeCode
  omega

/-- So the sum taken modulo `2^64` is the sum (R100). -/
theorem toNat_ofNat_timeCode (r : ClockReading) : (BitVec.ofNat 64 (timeCode r)).toNat = timeCode r := by
  rw [BitVec.toNat_ofNat, Nat.mod_eq_of_lt ((timeCode_le r).trans_lt (by decide))]

/-- Settles O17: the weights are the powers of ten of the definition, and the field widths bound the sum. -/
theorem timeCodeIsTheExactSum : Obligations.TimeCodeIsTheExactSum :=
  ⟨by decide, fun r => ⟨rfl, timeCode_le r, toNat_ofNat_timeCode r⟩⟩

/-! ## TSEED -/

/-- TSEED answers the time-based seed from the state the clock sample leaves (R102). -/
theorem execTseed_eq (s : State) : exec .tseed s = .next ((timeSeed64 s).2.respondWord (timeSeed64 s).1) := rfl

/-- Settles O18: the time-based seed moves the time port on by one reading, and the response is all that is added. -/
theorem tseedCommand : Obligations.TseedCommand := by
  refine ⟨fun fl => ?decodes, ?vector, ?zero, fun s => ?answers⟩
  case decodes => exact decode_append_of_no_flags rfl (by decide)
  case vector => decide
  case zero => decide
  case answers => rw [execTseed_eq, timeSeed64_eq, respondWord_eq, State.respond, zext, seedOfReading]

/-! ## RESEED -/

/-- The stream identifier RESEED mixes in: operand B when `iv`, STREAM as it stands otherwise (R104). -/
def reseedStream (iv : Bool) (s : State) : Word := if iv then mod64 s.opB else s.streamReg

/-- RESEED is one seeding with the operands its flags select, answered with the new STATE (R104). -/
theorem execReseed_eq (sv iv : Bool) (s : State) :
    exec (.reseed sv iv) s =
      let r := reseedProc (if sv then some (mod64 s.opA) else none) (if iv then some (mod64 s.opB) else none) s
      .next (r.2.respondWord r.1) := rfl

/-- An absent operand leaves STREAM to be mixed in (R103). -/
theorem getD_streamOperand (iv : Bool) (s : State) :
    (if iv then some (mod64 s.opB) else none).getD s.streamReg = reseedStream iv s := by
  cases iv <;> rfl

/-- RESEED with `SV = 1` seeds from operand A and leaves the clock alone. -/
theorem execReseed_operand_eq (iv : Bool) (s : State) :
    exec (.reseed true iv) s =
      .next ({ s with
        stateReg := seedState (mix64 (mod64 s.opA)) (reseedStream iv s)
        streamReg := reseedStream iv s }.respondWord (seedState (mix64 (mod64 s.opA)) (reseedStream iv s))) := by
  rw [execReseed_eq, if_pos rfl, reseedProc_some, getD_streamOperand]

/-- RESEED with `SV = 0` seeds from one clock sample. -/
theorem execReseed_clock_eq (iv : Bool) (s : State) :
    exec (.reseed false iv) s =
      .next ({ s with
        stateReg := seedState (seedOfReading s.reading) (reseedStream iv s)
        streamReg := reseedStream iv s
        timePort := s.timePort.tail
        clockSamples := s.clockSamples + 1 }.respondWord
          (seedState (seedOfReading s.reading) (reseedStream iv s))) := by
  rw [execReseed_eq, if_neg Bool.false_ne_true, reseedProc_none, getD_streamOperand]

/-- Settles O19: the two sources of the base are the two cases of the seeding, and the stored identifier is the one
mixed in. -/
theorem reseedCommand : Obligations.ReseedCommand := by
  refine ⟨fun fl => ?decodes, ?vector, fun s iv => ?fromOperand, fun s iv => ?fromClock⟩
  case decodes =>
    rw [decode_append_of_opcodeMap rfl, if_congr (reseed_flags_legal_iff fl) rfl rfl, ite_not, flagSV, flagIV]
  case vector => decide
  case fromOperand =>
    rw [execReseed_operand_eq, respondWord_eq, State.respond, zext, seedState, reseedStream, mod64, mod64]
  case fromClock =>
    rw [execReseed_clock_eq, respondWord_eq, State.respond, zext, seedState, reseedStream, mod64, seedOfReading]

/-! ## SETSID -/

/-- SETSID is a seeding without a seed, from the state that holds the new identifier; its result is dropped (R105). -/
theorem execSetsid_eq (s : State) :
    exec .setsid s = .next ((reseedProc none none (s.writeStream (mod64 s.opA))).2.respond .ok none) := rfl

/-- Storing the identifier does not change what the clock gives next. -/
@[simp] theorem writeStream_reading (s : State) (v : Word) : (s.writeStream v).reading = s.reading := rfl

/-- SETSID mixes in the identifier it has just stored, over one clock sample. -/
theorem execSetsid_clock_eq (s : State) :
    exec .setsid s =
      .next ({ s with
        stateReg := seedState (seedOfReading s.reading) (mod64 s.opA)
        streamReg := mod64 s.opA
        timePort := s.timePort.tail
        clockSamples := s.clockSamples + 1 }.respond .ok none) := by
  rw [execSetsid_eq, reseedProc_none, Option.getD_none, writeStream_reading, writeStream_streamReg, State.writeStream]

/-- Settles O20: a seeding from the clock under the new identifier, and a response that carries no result. -/
theorem setsidCommand : Obligations.SetsidCommand := by
  refine ⟨fun fl => ?decodes, ?vector, fun s => ?answers⟩
  case decodes => exact decode_append_of_no_flags rfl (by decide)
  case vector => decide
  case answers => rw [execSetsid_clock_eq, State.respond, seedState, seedOfReading, mod64]

end Sys2Proof.Machine
end

section
/-! PROOFS. The bit engine: NEXT64, and RANDBITS with a bit count of 0 (42_bit_engine.md rules R121 to R126). -/

namespace Sys2Proof.Machine

/-! ## NEXT64 -/

/-- From an initialised STATE, NEXT64 advances it and answers its mix (R121, R123). -/
theorem execNext64_initialised_eq {s : State} (h : s.stateReg ≠ 0#64) :
    exec .next64 s =
      .next ({ s with stateReg := s.stateReg + gamma }.respondWord (mix64 (s.stateReg + gamma))) := by
  rw [execNext64_eq, nextU64_initialised s h]

/-- From the sentinel, NEXT64 seeds from one clock sample and STREAM before it advances (R122, R123). -/
theorem execNext64_sentinel_eq {s : State} (h : s.stateReg = 0#64) :
    exec .next64 s =
      .next ({ s with
        stateReg := seedState (seedOfReading s.reading) s.streamReg + gamma
        timePort := s.timePort.tail
        clockSamples := s.clockSamples + 1 }.respondWord
          (mix64 (seedState (seedOfReading s.reading) s.streamReg + gamma))) := by
  rw [execNext64_eq, nextU64_sentinel s h]

/-- Settles O25: the two cases of the lazy seed, each followed by the advance and the response. -/
theorem next64Command : Obligations.Next64Command := by
  refine ⟨fun fl => ?decodes, ?vector, fun s h => ?initialised, fun s h => ?sentinel⟩
  case decodes => exact decode_append_of_no_flags rfl (by decide)
  case vector => decide
  case initialised => rw [execNext64_initialised_eq h, respondWord_eq, State.respond, zext, gamma]
  case sentinel =>
    rw [execNext64_sentinel_eq h, respondWord_eq, State.respond, zext, gamma, seedState, seedOfReading]

/-! ## RANDBITS 0 -/

/-- No operand width is too small for a request of no bits: `KMAX` is never negative (R6, R125). -/
theorem statusRandbits_zero (w : OperandWidth) : statusRandbits w 0 = .ok := by
  cases w <;> simp [statusRandbits, OperandWidth.overCapacity, OperandWidth.kmax]

/-- Settles O29: the operand check passes at every width, and a draw of no bits leaves the state as it is. -/
theorem randbitsZeroDrawsNothing : Obligations.RandbitsZeroDrawsNothing := by
  intro s h
  have hok : statusRandbits s.params.opw s.opA = .ok := h ▸ statusRandbits_zero s.params.opw
  have hdraw : randbits s.opA.toNat s = (0, s) := by rw [h, Int.toNat_zero, randbits_zero]
  rcases execRandbits_cases s with ⟨-, hexec⟩ | ⟨hraise, -⟩
  · rw [hexec, hdraw, respondOk_eq, State.respond, Int.natCast_zero]
  · exact absurd hok hraise

end Sys2Proof.Machine
end

section
/-! PROOFS. Errors (60_exceptions.md rules R185, R186): an error response is always that of `State.raise`, made from the
state in which the command was accepted. -/

namespace Sys2Proof.Machine

/-- The state's response port is empty or holds a response with status OK. -/
def State.NoError (s : State) : Prop := ∀ r ∈ s.response, r.status = .ok

theorem noError_of_response_none {s : State} (h : s.response = none) : s.NoError := by
  simp [State.NoError, h]

@[simp] theorem respond_ok_noError (s : State) (v : Option Int) : (s.respond .ok v).NoError := by
  simp [State.NoError]

/-- The rejection loop answers OK or nothing: no check stands after the first draw (R143, R186). -/
theorem runSampling_noError (p : Sampling) (s : State) : (runSampling p s).NoError := by
  rcases runSampling_response p s with ⟨⟨v, -, hr⟩, -⟩ | ⟨hr, -⟩
  · simp [State.NoError, hr]
  · exact noError_of_response_none hr

/-- A command ends without an error, or all it did was to raise one: its checks come before its first effect (R186). -/
theorem exec_noError_or_raise {i : Instr} {s t : State} (h : exec i s = .next t) :
    t.NoError ∨ ∃ st, t = s.raise st := by
  cases i with
  | mix64 => exact .inl (next_inj h ▸ respond_ok_noError _ _)
  | tseed => exact .inl (next_inj h ▸ respond_ok_noError _ _)
  | reseed sv iv => exact .inl (next_inj h ▸ respond_ok_noError _ _)
  | setsid => exact .inl (next_inj h ▸ respond_ok_noError _ _)
  | next64 => exact .inl (next_inj h ▸ respond_ok_noError _ _)
  | randbits =>
    rcases execRandbits_cases s with ⟨-, he⟩ | ⟨-, he⟩
    · exact .inl (next_inj (he.symm.trans h) ▸ respond_ok_noError _ _)
    · exact .inr ⟨_, next_inj (h.symm.trans he)⟩
  | ubelow =>
    rcases execUbelow_cases s with ⟨-, he⟩ | ⟨-, he⟩
    · exact .inl (next_inj (he.symm.trans h) ▸ runSampling_noError _ _)
    · exact .inr ⟨_, next_inj (h.symm.trans he)⟩
  | range inc =>
    rcases execRange_cases inc s with ⟨-, he⟩ | ⟨-, he⟩
    · exact .inl (next_inj (he.symm.trans h) ▸ runSampling_noError _ _)
    · exact .inr ⟨_, next_inj (h.symm.trans he)⟩

/-- The work of the core ends without an error, or took a command and raised one from the state that accepted it. -/
theorem work_noError_or_raise {s t : State} (h : work s = .next t) :
    t.NoError ∨ s.sampling = none ∧ ∃ c rest st, t = (s.accept c rest).raise st := by
  rcases work_cases h with ⟨p, -, rfl⟩ | ⟨-, -, rfl⟩ | ⟨c, rest, i, hs, -, -, -, he⟩ | ⟨c, rest, e, hs, -, -, -, rfl⟩
  · exact .inl (runSampling_noError p s)
  · exact .inl (noError_of_response_none (idle_response s))
  · exact (exec_noError_or_raise he).imp_right fun ⟨st, ht⟩ => ⟨hs, c, rest, st, ht⟩
  · exact .inr ⟨hs, c, rest, .illegal, rfl⟩

/-- So does a step; one that a reset ends has no response (R210). -/
theorem step_noError_or_raise {s t : State} (h : step s = .next t) :
    t.NoError ∨ s.sampling = none ∧ ∃ c rest st, t = (s.tickReset.accept c rest).raise st := by
  rcases step_cases h with ⟨-, rfl⟩ | ⟨-, m, u, -, -, rfl⟩ | ⟨-, hw⟩
  · exact .inl (noError_of_response_none (hardReset_response s))
  · exact .inl (noError_of_response_none (cutShort_response s u m))
  · exact work_noError_or_raise hw

/-- Settles O45: the step has raised its error from the state that accepted the command, and accepting a command writes
no register and leaves the clock alone. -/
theorem errorResponsesChangeNothing : Obligations.ErrorResponsesChangeNothing := by
  intro s t r hstep hr herror
  rcases step_noError_or_raise hstep with hok | ⟨hs, c, rest, st, rfl⟩
  · exact absurd (hok r hr) herror
  · have hraised : (⟨st, none⟩ : Response) = r := Option.some.inj hr
    subst hraised
    simp [hs]

end Sys2Proof.Machine
end

section
/-! PROOFS. Reset (70_reset_and_hazards.md rule R211). -/

namespace Sys2Proof.Machine

/-- Settles O1: the four rows of R211 are fields of the reset state as it is defined. -/
theorem resetValues : Obligations.ResetValues :=
  ⟨rfl, rfl, rfl, rfl⟩

end Sys2Proof.Machine
end

section
/-! PROOFS. Command words and ports (30_encoding.md rules R60 to R64, R68, R69, R187): the decoder taken apart, its inverse,
and the integers a port carries. -/

namespace Sys2Proof

/-! ## The decoder taken apart -/

/-- A word decodes exactly when its opcode is assigned and its must-be-zero flag bits are 0 (R68, R69). -/
theorem decode_eq_ok_iff {w : CmdWord} {i : Instr} :
    decode w = .ok i ↔
      opcodeMap (opField w) (flField w) = some i ∧ flField w &&& mustBeZero (opField w) = 0 := by
  unfold decode
  split
  · simp_all
  · split <;> simp_all

theorem decode_eq_reservedOpcode_iff {w : CmdWord} :
    decode w = .error .reservedOpcode ↔ opcodeMap (opField w) (flField w) = none := by
  unfold decode
  split
  · simp_all
  · split <;> simp_all

theorem decode_eq_reservedFlag_iff {w : CmdWord} :
    decode w = .error .reservedFlag ↔
      opcodeMap (opField w) (flField w) ≠ none ∧ flField w &&& mustBeZero (opField w) ≠ 0 := by
  unfold decode
  split
  · simp_all
  · split <;> simp_all

/-- The reserved opcodes are 0 and 9 to 15 (R68). -/
theorem opcodeMap_eq_none_iff (op fl : BitVec 4) : opcodeMap op fl = none ↔ op.toNat = 0 ∨ 9 ≤ op.toNat := by
  revert op fl
  decide

/-- The must-be-zero bits by opcode, as remainders of the flag field (R62). -/
theorem mustBeZero_violated_iff (op fl : BitVec 4) :
    fl &&& mustBeZero op ≠ 0 ↔
      if op.toNat = 3 then fl.toNat / 4 ≠ 0 else if op.toNat = 8 then fl.toNat / 2 ≠ 0 else fl.toNat ≠ 0 := by
  revert op fl
  decide

/-- The opcode of a command is the one it was decoded from (R61). -/
theorem opcode_of_opcodeMap {op fl : BitVec 4} {i : Instr} (h : opcodeMap op fl = some i) : i.opcode = op := by
  unfold opcodeMap at h
  split at h <;> cases h <;> exact (BitVec.eq_of_toNat_eq ‹op.toNat = _›).symm

/-- Where the must-be-zero bits are 0, the flag field is that of the command (R62). -/
theorem flags_of_opcodeMap {op fl : BitVec 4} {i : Instr} (h : opcodeMap op fl = some i)
    (hz : fl &&& mustBeZero op = 0) : i.flags = fl := by
  obtain rfl := opcode_of_opcodeMap h
  revert fl
  cases i with
  | reseed sv iv => revert sv iv; decide
  | range inc => revert inc; decide
  | _ => decide

theorem opField_append_flField (w : CmdWord) : opField w ++ flField w = w :=
  BitVec.extractLsb'_append_extractLsb'_eq_extractLsb' (by decide) |>.trans (by simp)

theorem opField_toNat (w : CmdWord) : (opField w).toNat = w.toNat / 16 := by
  have := w.isLt
  simp [opField, Nat.shiftRight_eq_div_pow]
  omega

theorem flField_toNat (w : CmdWord) : (flField w).toNat = w.toNat % 16 := by
  simp [flField]

/-! ## Decoding and encoding -/

theorem encode_of_decode {w : CmdWord} {i : Instr} (h : decode w = .ok i) : encode i = w := by
  obtain ⟨hi, hz⟩ := decode_eq_ok_iff.mp h
  rw [encode, opcode_of_opcodeMap hi, flags_of_opcodeMap hi hz, opField_append_flField]

/-- Every command is decoded from its word (R62). -/
theorem decode_encode (i : Instr) : decode (encode i) = .ok i := by
  cases i with
  | reseed sv iv => revert sv iv; decide
  | range inc => revert inc; decide
  | _ => decide

/-- Settles O11: the two fields of a word that decodes are the opcode and the flags of its command. -/
theorem decodeAndEncodeAgree : Obligations.DecodeAndEncodeAgree :=
  fun _ _ => ⟨encode_of_decode, fun h => h ▸ decode_encode _⟩

/-- Settles O10: the twelve words, evaluated. -/
theorem legalWordsDecode : Obligations.LegalWordsDecode := by
  unfold Obligations.LegalWordsDecode
  decide

/-- Settles O12: the opcode decides the first error; the second stands behind an assigned opcode. -/
theorem decoderRejectsByName : Obligations.DecoderRejectsByName := by
  intro w
  refine ⟨?opcode, ?flag⟩
  case opcode => rw [decode_eq_reservedOpcode_iff, opcodeMap_eq_none_iff, opField_toNat]
  case flag =>
    rw [decode_eq_reservedFlag_iff, ne_eq, opcodeMap_eq_none_iff, mustBeZero_violated_iff, opField_toNat,
      flField_toNat, not_or, Nat.not_le, Nat.lt_succ_iff, and_assoc, Nat.one_le_iff_ne_zero]

/-- The word of a command is one of the twelve of R62. -/
theorem encode_mem_legalWords (i : Instr) : encode i ∈ legalWords := by
  cases i with
  | reseed sv iv => revert sv iv; decide
  | range inc => revert inc; decide
  | _ => decide

/-- A word that is none of the twelve is rejected (R68, R69). -/
theorem decode_eq_error_of_not_legal {w : CmdWord} (h : w ∉ legalWords) : ∃ e, decode w = .error e := by
  cases hd : decode w with
  | error e => exact ⟨e, rfl⟩
  | ok i => exact absurd (encode_of_decode hd ▸ encode_mem_legalWords i) h

/-! ## The integers of a port -/

theorem fits_bits_iff (n : Nat) (v : Int) :
    (OperandWidth.bits n).fits v = true ↔ -(2 : Int) ^ (n - 1) ≤ v ∧ v ≤ (2 : Int) ^ (n - 1) - 1 := by
  simp [OperandWidth.fits]

/-- An integer between two that a port carries is carried too. -/
theorem fits_of_between {w : OperandWidth} {a b v : Int} (ha : w.fits a = true) (hb : w.fits b = true)
    (hav : a ≤ v) (hvb : v ≤ b) : w.fits v = true := by
  cases w with
  | inf => rfl
  | bits n =>
    rw [fits_bits_iff] at *
    omega

end Sys2Proof

namespace Sys2Proof.Machine

/-- Settles O13: the bits of an integer give back an integer of the port, and the integer itself if it is one. -/
theorem portBitsCarryTheInteger : Obligations.PortBitsCarryTheInteger := by
  intro n v hn
  rw [fits_bits_iff, Int.le_sub_one_iff, portValue, portBits]
  refine ⟨fun ⟨hlo, hhi⟩ => BitVec.toInt_ofInt_eq_self hn hlo hhi, fun h => ?_⟩
  rw [← h]
  exact ⟨BitVec.le_toInt _, BitVec.toInt_lt⟩

end Sys2Proof.Machine
end

section
/-! PROOFS. What the commands leave alone (10_state.md rules R21 to R23, R31; 30_encoding.md rule R63; 70_reset_and_hazards.md
rule R229): the ports, the registers, the clock, and the operands a command does not use. -/

namespace Sys2Proof.Machine

/-! ## The two outcomes of a checked command -/

theorem execRandbits_of_ok {s : State} (h : statusRandbits s.params.opw s.opA = .ok) :
    exec .randbits s = .next ((randbits s.opA.toNat s).2.respondOk (randbits s.opA.toNat s).1) :=
  (execRandbits_cases s).elim And.right fun ⟨hne, _⟩ => absurd h hne

theorem execRandbits_of_error {s : State} (h : statusRandbits s.params.opw s.opA ≠ .ok) :
    exec .randbits s = .next (s.raise (statusRandbits s.params.opw s.opA)) :=
  (execRandbits_cases s).elim (fun ⟨hok, _⟩ => absurd hok h) And.right

theorem execUbelow_of_pos {s : State} (h : 0 < s.opA) :
    exec .ubelow s = .next (startSampling s.opA.toNat 0 s) :=
  (execUbelow_cases s).elim And.right fun ⟨hle, _⟩ => absurd h hle.not_gt

theorem execUbelow_of_nonpos {s : State} (h : s.opA ≤ 0) : exec .ubelow s = .next (s.raise .invalidArgument) :=
  (execUbelow_cases s).elim (fun ⟨hpos, _⟩ => absurd h hpos.not_ge) And.right

theorem execRange_of_pos {inc : Bool} {s : State} (h : 0 < rangeSize s.opA s.opB inc) :
    exec (.range inc) s = .next (startSampling (rangeSize s.opA s.opB inc).toNat s.opA s) :=
  (execRange_cases inc s).elim And.right fun ⟨hle, _⟩ => absurd h hle.not_gt

/-! ## The ports and the parameters -/

/-- A command writes nothing but the registers, the response, the command in progress and the clock's two fields. -/
theorem exec_ran {i : Instr} {s t : State} (h : exec i s = .next t) : Ran s t := by
  cases i with
  | mix64 =>
    rw [execMix64_eq] at h
    exact next_inj h ▸ (Drawn.refl s).ran _ _
  | tseed =>
    rw [execTseed_eq, timeSeed64_eq, ← List.drop_one] at h
    exact next_inj h ▸ ⟨_, _, _, _, 1, rfl⟩
  | reseed sv iv =>
    cases sv with
    | true =>
      rw [execReseed_operand_eq] at h
      exact next_inj h ▸ ⟨_, _, _, _, 0, rfl⟩
    | false =>
      rw [execReseed_clock_eq, ← List.drop_one] at h
      exact next_inj h ▸ ⟨_, _, _, _, 1, rfl⟩
  | setsid =>
    rw [execSetsid_clock_eq, ← List.drop_one] at h
    exact next_inj h ▸ ⟨_, _, _, _, 1, rfl⟩
  | next64 =>
    rw [execNext64_eq] at h
    exact next_inj h ▸ (nextU64_drawn s).ran _ _
  | randbits =>
    rcases execRandbits_cases s with ⟨-, he⟩ | ⟨-, he⟩
    · exact next_inj (he.symm.trans h) ▸ (randbits_drawn _ s).ran _ _
    · exact next_inj (he.symm.trans h) ▸ raise_ran s _
  | ubelow =>
    rcases execUbelow_cases s with ⟨-, he⟩ | ⟨-, he⟩
    · exact next_inj (he.symm.trans h) ▸ runSampling_ran _ s
    · exact next_inj (he.symm.trans h) ▸ raise_ran s _
  | range inc =>
    rcases execRange_cases inc s with ⟨-, he⟩ | ⟨-, he⟩
    · exact next_inj (he.symm.trans h) ▸ runSampling_ran _ s
    · exact next_inj (he.symm.trans h) ▸ raise_ran s _

/-- Settles O52: none of these fields is among those a command can write. -/
theorem commandsLeaveThePortsAlone : Obligations.CommandsLeaveThePortsAlone := by
  intro i s t h
  obtain ⟨v, w, r, sm, m, rfl⟩ := exec_ran h
  exact ⟨rfl, rfl, rfl, rfl, rfl, rfl⟩

/-! ## STREAM -/

theorem Drawn.streamReg_eq {s t : State} (h : Drawn s t) : t.streamReg = s.streamReg := by
  obtain ⟨v, m, rfl⟩ := h
  rfl

theorem runSampling_streamReg (p : Sampling) (s : State) : (runSampling p s).streamReg = s.streamReg := by
  have hD := (drawLoop_drawn s.drawBudget p s).streamReg_eq
  rcases runSampling_cases p s with ⟨r, t, hd, -, he⟩ | ⟨t, hd, he⟩ <;> rw [he] <;> rw [hd] at hD <;> exact hD

/-- The STREAM a command leaves (R22): the identifier SETSID and RESEED with `IV = 1` store, else STREAM as it stood. -/
def streamAfter (i : Instr) (s : State) : Word :=
  match i with
  | .setsid => mod64 s.opA
  | .reseed _ iv => reseedStream iv s
  | _ => s.streamReg

theorem exec_streamReg {i : Instr} {s t : State} (h : exec i s = .next t) : t.streamReg = streamAfter i s := by
  cases i with
  | mix64 =>
    rw [execMix64_eq] at h
    rw [← next_inj h]; rfl
  | tseed =>
    rw [execTseed_eq, timeSeed64_eq] at h
    rw [← next_inj h]; rfl
  | reseed sv iv =>
    cases sv with
    | true =>
      rw [execReseed_operand_eq] at h
      rw [← next_inj h]; rfl
    | false =>
      rw [execReseed_clock_eq] at h
      rw [← next_inj h]; rfl
  | setsid =>
    rw [execSetsid_clock_eq] at h
    rw [← next_inj h]; rfl
  | next64 =>
    rw [← next_inj ((execNext64_eq s).symm.trans h), respondWord_eq, respond_streamReg]
    exact (nextU64_drawn s).streamReg_eq
  | randbits =>
    rcases execRandbits_cases s with ⟨-, he⟩ | ⟨-, he⟩ <;> rw [← next_inj (he.symm.trans h)]
    · exact randbits_streamReg _ s
    · rfl
  | ubelow =>
    rcases execUbelow_cases s with ⟨-, he⟩ | ⟨-, he⟩ <;> rw [← next_inj (he.symm.trans h)]
    · exact runSampling_streamReg _ s
    · rfl
  | range inc =>
    rcases execRange_cases inc s with ⟨-, he⟩ | ⟨-, he⟩ <;> rw [← next_inj (he.symm.trans h)]
    · exact runSampling_streamReg _ s
    · rfl

/-- Settles O53: MIX64 and TSEED leave the register of STATE, too; the others' STREAM is that of `streamAfter`. -/
theorem commandsLeaveOtherRegistersAlone : Obligations.CommandsLeaveOtherRegistersAlone := by
  intro i s t h
  refine ⟨?both, ?stream⟩
  case both =>
    rintro (rfl | rfl)
    · rw [execMix64_eq] at h
      rw [← next_inj h]; exact ⟨rfl, rfl⟩
    · rw [execTseed_eq, timeSeed64_eq] at h
      rw [← next_inj h]; exact ⟨rfl, rfl⟩
  case stream =>
    rw [exec_streamReg h]
    rintro (⟨sv, rfl⟩ | rfl | rfl | rfl | ⟨inc, rfl⟩) <;> rfl

/-! ## The clock -/

/-- Settles O54: the samples of each command's equation; for NEXT64 they are those of its one word. -/
theorem clockSamplesOfTheCommands : Obligations.ClockSamplesOfTheCommands := by
  intro i s t h
  refine ⟨?none, ?one, ?next64⟩
  case none =>
    rintro (rfl | ⟨iv, rfl⟩)
    · rw [← next_inj ((execMix64_eq s).symm.trans h), respondWord_eq, respond_clockSamples]
    · rw [execReseed_operand_eq] at h
      rw [← next_inj h, respondWord_eq, respond_clockSamples]
  case one =>
    rintro (rfl | rfl | ⟨iv, rfl⟩)
    · rw [execTseed_eq, timeSeed64_eq] at h
      rw [← next_inj h]; rfl
    · rw [execSetsid_clock_eq] at h
      rw [← next_inj h]; rfl
    · rw [execReseed_clock_eq] at h
      rw [← next_inj h]; rfl
  case next64 =>
    rintro rfl
    rw [← next_inj ((execNext64_eq s).symm.trans h), respondWord_eq, respond_clockSamples, ← nextWord]
    exact (nextWord_clock s).1

/-! ## Operands a command does not use -/

/-- A drawn state with the host's fields put back is the drawn state, but for its operand ports. -/
theorem Drawn.withOthers_eq {s u : State} (h : Drawn s u) (a b : Int) :
    u.withOthers s.sampling s.response a b s.resetPort s.drawBudget = { u with opA := a, opB := b } := by
  obtain ⟨v, m, rfl⟩ := h
  rfl

theorem nextU64_withOperands (s : State) (a b : Int) :
    nextU64 { s with opA := a, opB := b } = ((nextU64 s).1, { (nextU64 s).2 with opA := a, opB := b }) := by
  rw [← (nextU64_drawn s).withOthers_eq]
  exact nextU64_withOthers s s.sampling s.response a b s.resetPort s.drawBudget

theorem randbits_withOperands (k : Nat) (s : State) (a b : Int) :
    randbits k { s with opA := a, opB := b } = ((randbits k s).1, { (randbits k s).2 with opA := a, opB := b }) := by
  rw [← (randbits_drawn k s).withOthers_eq]
  exact randbits_withOthers k s s.sampling s.response a b s.resetPort s.drawBudget

/-- The rejection loop looks neither at the operand ports nor at the two fields it overwrites. -/
theorem runSampling_withOthers (p : Sampling) (s : State) (sm : Option Sampling) (r : Option Response) (a b : Int) :
    runSampling p { s with sampling := sm, response := r, opA := a, opB := b } =
      { runSampling p s with opA := a, opB := b } := by
  have hloop := drawLoop_withOthers s.drawBudget p s sm r a b s.resetPort s.drawBudget
  have hD := drawLoop_drawn s.drawBudget p s
  rcases hd : drawLoop s.drawBudget p s with ⟨_ | v, t⟩ <;> rw [hd] at hloop hD <;> obtain ⟨w, m, rfl⟩ := hD
  · rw [runSampling_none hd]
    exact runSampling_none (s := s.withOthers sm r a b s.resetPort s.drawBudget) hloop
  · rw [runSampling_some hd]
    exact runSampling_some (s := s.withOthers sm r a b s.resetPort s.drawBudget) hloop

theorem respond_withOperands (s : State) (st : Status) (v : Option Int) (a b : Int) :
    State.respond { s with opA := a, opB := b } st v = { s.respond st v with opA := a, opB := b } := rfl

theorem Ran.withOpA_eq {s t : State} (h : Ran s t) (v : Int) :
    { t with opA := v, opB := s.opB } = { t with opA := v } := by
  obtain ⟨_, _, _, _, _, rfl⟩ := h
  rfl

theorem Ran.withOpB_eq {s t : State} (h : Ran s t) (v : Int) :
    { t with opA := s.opA, opB := v } = { t with opB := v } := by
  obtain ⟨_, _, _, _, _, rfl⟩ := h
  rfl

theorem execNext64_withOperands {s t : State} (h : exec .next64 s = .next t) (a b : Int) :
    exec .next64 { s with opA := a, opB := b } = .next { t with opA := a, opB := b } := by
  rw [← next_inj ((execNext64_eq s).symm.trans h), execNext64_eq, nextU64_withOperands, respondWord_eq,
    respond_withOperands, respondWord_eq]

/-- RANDBITS reads operand A only (R125). -/
theorem execRandbits_withOpB {s t : State} (h : exec .randbits s = .next t) (b : Int) :
    exec .randbits { s with opB := b } = .next { t with opB := b } := by
  rw [← (exec_ran h).withOpB_eq]
  rcases execRandbits_cases s with ⟨hok, he⟩ | ⟨hne, he⟩ <;> rw [← next_inj (he.symm.trans h)]
  · rw [execRandbits_of_ok (s := { s with opB := b }) hok, randbits_withOperands, respondOk_eq, respond_withOperands,
      respondOk_eq]
  · exact execRandbits_of_error (s := { s with opB := b }) hne

/-- UBELOW reads operand A only (R142). -/
theorem execUbelow_withOpB {s t : State} (h : exec .ubelow s = .next t) (b : Int) :
    exec .ubelow { s with opB := b } = .next { t with opB := b } := by
  rw [← (exec_ran h).withOpB_eq]
  rcases execUbelow_cases s with ⟨hpos, he⟩ | ⟨hle, he⟩ <;> rw [← next_inj (he.symm.trans h)]
  · rw [execUbelow_of_pos (s := { s with opB := b }) hpos]
    exact congrArg _ (runSampling_withOthers _ s s.sampling s.response s.opA b)
  · exact execUbelow_of_nonpos (s := { s with opB := b }) hle

/-- Settles O51: the equation of each command, read at the other operand. -/
theorem unusedOperandsAreIgnored : Obligations.UnusedOperandsAreIgnored := by
  intro s t v i h
  refine ⟨?opB, ?opA⟩
  case opB =>
    rintro (rfl | rfl | ⟨sv, rfl⟩ | rfl | rfl | rfl | rfl)
    · rw [execMix64_eq] at *
      rw [← next_inj h]; rfl
    · rw [execTseed_eq, timeSeed64_eq] at *
      rw [← next_inj h]; rfl
    · cases sv with
      | true =>
        rw [execReseed_operand_eq] at *
        rw [← next_inj h]; rfl
      | false =>
        rw [execReseed_clock_eq] at *
        rw [← next_inj h]; rfl
    · rw [execSetsid_clock_eq] at *
      rw [← next_inj h]; rfl
    · rw [execNext64_withOperands h, (exec_ran h).withOpB_eq]
    · exact execRandbits_withOpB h v
    · exact execUbelow_withOpB h v
  case opA =>
    rintro (rfl | ⟨iv, rfl⟩ | rfl)
    · rw [execTseed_eq, timeSeed64_eq] at *
      rw [← next_inj h]; rfl
    · rw [execReseed_clock_eq] at *
      rw [← next_inj h]; rfl
    · rw [execNext64_withOperands h, (exec_ran h).withOpA_eq]

end Sys2Proof.Machine
end

section
/-! PROOFS. The step (20_memory.md rule R46; 60_exceptions.md rules R180, R206; 70_reset_and_hazards.md rule R210): what it
does in each situation, what a reset makes of it, and what it takes from the host's inputs. -/

namespace Sys2Proof.Machine

/-! ## The work of the core, situation by situation -/

theorem work_inProgress {s : State} {p : Sampling} (h : s.sampling = some p) : work s = .next (runSampling p s) := by
  simp only [work, h]

theorem work_idle {s : State} (hs : s.sampling = none) (hc : s.commands = []) : work s = .next s.idle := by
  simp only [work, hs, hc]

theorem work_presented {s : State} {c : Command} {rest : List Command} (hs : s.sampling = none)
    (hc : s.commands = c :: rest) : work s = takeCommand c rest s := by
  simp only [work, hs, hc]

theorem takeCommand_of_decode_ok {s : State} {c : Command} {rest : List Command} {i : Instr}
    (hp : c.presentable s.params.opw = true) (hd : decode c.cmd = .ok i) :
    takeCommand c rest s = exec i (s.accept c rest) := by
  simp only [takeCommand, if_pos hp, hd]

theorem takeCommand_of_decode_error {s : State} {c : Command} {rest : List Command} {e : DecodeError}
    (hp : c.presentable s.params.opw = true) (hd : decode c.cmd = .error e) :
    takeCommand c rest s = .next ((s.accept c rest).raise .illegal) := by
  simp only [takeCommand, if_pos hp, hd]

theorem takeCommand_of_not_presentable {s : State} {c : Command} {rest : List Command}
    (hp : c.presentable s.params.opw = false) : takeCommand c rest s = .refused .operandNotPresentable := by
  simp [takeCommand, hp]

/-- A presentable command is taken and leaves a next state: it runs or answers ILLEGAL. -/
theorem takeCommand_next {s : State} {c : Command} (rest : List Command) (hp : c.presentable s.params.opw = true) :
    ∃ t, takeCommand c rest s = .next t := by
  cases hd : decode c.cmd with
  | ok i => rw [takeCommand_of_decode_ok hp hd]; exact exec_next i _
  | error e => exact ⟨_, takeCommand_of_decode_error hp hd⟩

/-- A command taken has left its port, and its operands stand on the operand ports. -/
theorem takeCommand_ports {s t : State} {c : Command} {rest : List Command} (h : takeCommand c rest s = .next t) :
    t.commands = rest ∧ t.opA = c.a ∧ t.opB = c.b := by
  obtain ⟨-, ⟨i, -, he⟩ | ⟨e, -, rfl⟩⟩ := takeCommand_cases h
  · obtain ⟨_, _, _, _, _, rfl⟩ := exec_ran he
    exact ⟨rfl, rfl, rfl⟩
  · exact ⟨rfl, rfl, rfl⟩

theorem step_presented {s : State} {c : Command} {rest : List Command} (h : s.Presents c rest) :
    step s = takeCommand c rest s.tickReset := by
  obtain ⟨hr, hs, hc⟩ := h
  rw [step_work hr, work_presented (s := s.tickReset) hs hc]

/-! ## A step without a reset -/

/-- Settles O3: taking the command is the update of the ports, and the decoded command runs from there. -/
theorem stepRunsThePresentedCommand : Obligations.StepRunsThePresentedCommand := by
  intro s c rest i hP hp hd
  rw [step_presented hP, takeCommand_of_decode_ok (s := s.tickReset) hp hd]
  rfl

/-- Settles O4: the word is rejected by the decoder, and the error response is raised from the state that took it. -/
theorem reservedWordsAnswerIllegal : Obligations.ReservedWordsAnswerIllegal := by
  intro s c rest hP hp hw
  obtain ⟨e, hd⟩ := decode_eq_error_of_not_legal hw
  rw [step_presented hP, takeCommand_of_decode_error (s := s.tickReset) hp hd]
  obtain ⟨-, hs, -⟩ := hP
  simp [State.respond, State.accept, State.tickReset, hs]

/-- Settles O5. -/
theorem idleCoreKeepsItsRegisters : Obligations.IdleCoreKeepsItsRegisters := by
  intro s hr hs hc
  rw [step_work hr, work_idle (s := s.tickReset) hs hc]
  rfl

/-- Settles O6: a command is presentable when both its operands fit. -/
theorem oversizeOperandsAreRefused : Obligations.OversizeOperandsAreRefused := by
  refine ⟨fits_bits_iff, fun _ => rfl, fun s c rest hP hfits => ?_⟩
  rw [step_presented hP, takeCommand_of_not_presentable]
  simpa [Command.presentable, ← Bool.and_eq_true] using hfits

/-- Without a reset the core answers a next state, unless it refuses the presented command. -/
theorem work_next_or_refused (s : State) :
    (∃ t, work s = .next t) ∨
      (work s = .refused .operandNotPresentable ∧
        ∃ c rest, s.sampling = none ∧ s.commands = c :: rest ∧ c.presentable s.params.opw = false) := by
  cases hs : s.sampling with
  | some p => exact .inl ⟨_, work_inProgress hs⟩
  | none =>
    cases hc : s.commands with
    | nil => exact .inl ⟨_, work_idle hs hc⟩
    | cons c rest =>
      rw [work_presented hs hc]
      cases hp : c.presentable s.params.opw with
      | true => exact .inl (takeCommand_next rest hp)
      | false => exact .inr ⟨takeCommand_of_not_presentable hp, c, rest, rfl, rfl, hp⟩

/-- Settles O7: a step with a reset always has a next state, and without one it is the work of the core. -/
theorem stepAnswersUnlessRefused : Obligations.StepAnswersUnlessRefused := by
  intro s
  cases hr : s.resetAsserted with
  | true =>
    rcases step_reset hr with h | ⟨m, u, -, -, h⟩
    · exact .inl ⟨_, h⟩
    · exact .inl ⟨_, h⟩
  | false =>
    rw [step_work hr]
    refine (work_next_or_refused s.tickReset).imp_right fun ⟨h, c, rest, hs, hc, hp⟩ => ?_
    exact ⟨h, c, rest, ⟨hr, hs, hc⟩, hp⟩

/-! ## A step with a reset -/

theorem step_asserted {s : State} (h : s.resetInput = .asserted) : step s = .next s.hardReset := by
  simp only [step, cycle, h]

theorem step_assertedDuring_next {s t : State} {m : Nat} (h : s.resetInput = .assertedDuring m)
    (hw : work s.tickReset = .next t) : step s = .next (s.cutShort t m) := by
  simp only [step, cycle, h, hw]

theorem step_assertedDuring_refused {s : State} {m : Nat} {r : Refusal} (h : s.resetInput = .assertedDuring m)
    (hw : work s.tickReset = .refused r) : step s = .next s.hardReset := by
  simp only [step, cycle, h, hw]

theorem resetInput_of_cons {s : State} {x : ResetInput} {later : List ResetInput} (h : s.resetPort = x :: later) :
    s.resetInput = x := by
  rw [State.resetInput, h, List.headD_cons]

theorem tickReset_of_cons {s : State} {x : ResetInput} {later : List ResetInput} (h : s.resetPort = x :: later) :
    s.tickReset = { s with resetPort := later } := by
  rw [State.tickReset, h, List.tail_cons]

/-- The step with the reset input left deasserted is the work a reset during it would cut short. -/
theorem step_deasserted_instead {s : State} {x : ResetInput} {later : List ResetInput} (h : s.resetPort = x :: later) :
    step { s with resetPort := .deasserted :: later } = work s.tickReset := by
  rw [step_work rfl, tickReset_of_cons h]
  rfl

/-- A command in progress without a reset goes on or answers. -/
theorem step_inProgress {s : State} {p : Sampling} (hr : s.resetAsserted = false) (hs : s.sampling = some p) :
    step s = .next (runSampling p s.tickReset) := by
  rw [step_work hr, work_inProgress (s := s.tickReset) hs]

/-- Settles O2: the two ways a reset is asserted; then what either leaves; then what ends a command in progress. -/
theorem resetAbandonsTheCommand : Obligations.ResetAbandonsTheCommand := by
  refine ⟨fun s later h => ?atBegin, fun s m later h => ⟨fun t ht => ?during, fun r hr => ?refused⟩,
    fun s h => ?resetState, fun s t p hs h => ?inProgress⟩
  case atBegin =>
    rw [step_asserted (resetInput_of_cons h), State.hardReset, tickReset_of_cons h]
    rfl
  case during =>
    rw [step_deasserted_instead h] at ht
    rw [step_assertedDuring_next (resetInput_of_cons h) ht]
    rfl
  case refused =>
    rw [step_deasserted_instead h] at hr
    rw [step_assertedDuring_refused (resetInput_of_cons h) hr, State.hardReset, tickReset_of_cons h]
    rfl
  case resetState =>
    rcases step_reset h with hstep | ⟨m, u, -, -, hstep⟩
    · exact ⟨_, hstep, rfl, rfl, rfl, rfl⟩
    · exact ⟨_, hstep, rfl, rfl, rfl, rfl⟩
  case inProgress =>
    cases hr : s.resetAsserted with
    | true => exact .inl rfl
    | false =>
      rw [step_inProgress hr hs] at h
      rw [← next_inj h]
      rcases runSampling_response p s.tickReset with ⟨⟨v, -, hresp⟩, hsm⟩ | ⟨hresp, hsm⟩
      · exact .inr (.inr ⟨hsm, _, hresp⟩)
      · exact .inr (.inl ⟨hsm, hresp⟩)

/-! ## One response per command -/

/-- A step of the loop answers exactly when it ends the command. -/
theorem runSampling_ends_iff_answers (p : Sampling) (s : State) :
    (runSampling p s).sampling = none ↔ (runSampling p s).response.isSome = true := by
  rcases runSampling_response p s with ⟨⟨v, -, hr⟩, hsm⟩ | ⟨hr, hsm⟩ <;> simp [hr, hsm]

theorem respond_ends_iff_answers (s : State) (st : Status) (v : Option Int) :
    (s.respond st v).sampling = none ↔ (s.respond st v).response.isSome = true := by simp

/-- A command is answered, or it is UBELOW or RANGE still drawing (R65, R141). -/
theorem exec_answers {i : Instr} {s t : State} (h : exec i s = .next t) :
    (t.sampling = none ↔ t.response.isSome = true) ∧ (t.sampling ≠ none → i = .ubelow ∨ ∃ inc, i = .range inc) := by
  cases i with
  | mix64 =>
    rw [execMix64_eq] at h
    exact next_inj h ▸ ⟨respond_ends_iff_answers _ _ _, absurd rfl⟩
  | tseed =>
    rw [execTseed_eq] at h
    exact next_inj h ▸ ⟨respond_ends_iff_answers _ _ _, absurd rfl⟩
  | reseed sv iv =>
    rw [execReseed_eq] at h
    exact next_inj h ▸ ⟨respond_ends_iff_answers _ _ _, absurd rfl⟩
  | setsid =>
    rw [execSetsid_eq] at h
    exact next_inj h ▸ ⟨respond_ends_iff_answers _ _ _, absurd rfl⟩
  | next64 =>
    rw [execNext64_eq] at h
    exact next_inj h ▸ ⟨respond_ends_iff_answers _ _ _, absurd rfl⟩
  | randbits =>
    rcases execRandbits_cases s with ⟨-, he⟩ | ⟨-, he⟩ <;>
      exact next_inj (he.symm.trans h) ▸ ⟨respond_ends_iff_answers _ _ _, absurd rfl⟩
  | ubelow =>
    refine ⟨?_, fun _ => .inl rfl⟩
    rcases execUbelow_cases s with ⟨-, he⟩ | ⟨-, he⟩ <;> rw [← next_inj (he.symm.trans h)]
    · exact runSampling_ends_iff_answers _ _
    · exact respond_ends_iff_answers _ _ _
  | range inc =>
    refine ⟨?_, fun _ => .inr ⟨inc, rfl⟩⟩
    rcases execRange_cases inc s with ⟨-, he⟩ | ⟨-, he⟩ <;> rw [← next_inj (he.symm.trans h)]
    · exact runSampling_ends_iff_answers _ _
    · exact respond_ends_iff_answers _ _ _

/-- Settles O48: the word of a command still drawing is encoded from UBELOW or RANGE. -/
theorem oneResponsePerCommand : Obligations.OneResponsePerCommand := by
  refine ⟨fun s t c rest hP h => ?presented, fun s t hs hr h => ?inProgress⟩
  case presented =>
    rw [step_presented hP] at h
    refine ⟨(takeCommand_ports h).1, ?_⟩
    obtain ⟨-, ⟨i, hd, he⟩ | ⟨e, -, rfl⟩⟩ := takeCommand_cases h
    · obtain ⟨hanswer, hdrawing⟩ := exec_answers he
      refine ⟨hanswer, fun hsm => ?_⟩
      rw [← encode_of_decode hd]
      rcases hdrawing hsm with rfl | ⟨inc, rfl⟩
      · exact .inl rfl
      · cases inc
        · exact .inr (.inl rfl)
        · exact .inr (.inr rfl)
    · simp
  case inProgress =>
    obtain ⟨p, hp⟩ := Option.ne_none_iff_exists'.mp hs
    rw [step_inProgress hr hp] at h
    rw [← next_inj h]
    refine ⟨?_, runSampling_ends_iff_answers p _⟩
    obtain ⟨_, _, _, _, _, ht⟩ := runSampling_ran p s.tickReset
    rw [ht]
    rfl

/-! ## The host's inputs and the parameters -/

/-- What the work of the core takes from the host's inputs: clock readings in order and at most one command; the
parameters and the reset input stay. -/
structure InputsConsumed (s t : State) : Prop where
  params : t.params = s.params
  drawBudget : t.drawBudget = s.drawBudget
  resetPort : t.resetPort = s.resetPort
  clock : ∃ m, t.clockSamples = s.clockSamples + m ∧ t.timePort = s.timePort.drop m
  commands : t.commands = s.commands ∨ t.commands = s.commands.tail

theorem Ran.inputsConsumed {s t : State} (h : Ran s t) : InputsConsumed s t := by
  obtain ⟨_, _, _, _, m, rfl⟩ := h
  exact ⟨rfl, rfl, rfl, ⟨m, rfl, rfl⟩, .inl rfl⟩

/-- Accepting a command takes it from the port before it runs. -/
theorem Ran.inputsConsumed_accept {s t : State} {c : Command} {rest : List Command} (hc : s.commands = c :: rest)
    (h : Ran (s.accept c rest) t) : InputsConsumed s t := by
  obtain ⟨_, _, _, _, m, rfl⟩ := h
  exact ⟨rfl, rfl, rfl, ⟨m, rfl, rfl⟩, .inr (by rw [hc]; rfl)⟩

theorem work_inputsConsumed {s t : State} (h : work s = .next t) : InputsConsumed s t := by
  rcases work_cases h with ⟨p, -, rfl⟩ | ⟨-, -, rfl⟩ | ⟨c, rest, i, -, hc, -, -, he⟩ |
    ⟨c, rest, e, -, hc, -, -, rfl⟩
  · exact (runSampling_ran p s).inputsConsumed
  · exact ⟨rfl, rfl, rfl, ⟨0, rfl, rfl⟩, .inl rfl⟩
  · exact (exec_ran he).inputsConsumed_accept hc
  · exact (raise_ran _ _).inputsConsumed_accept hc

/-- Settles O49: the work of the core consumes its inputs in order; a reset before it takes none of them, and one during it
the clock samples of its entry. -/
theorem stepsConsumeTheInputsInOrder : Obligations.StepsConsumeTheInputsInOrder := by
  intro s t h
  rcases step_cases h with ⟨-, rfl⟩ | ⟨-, m, u, -, hw, rfl⟩ | ⟨-, hw⟩
  · simp
  · obtain ⟨hp, hb, hr, -, hc⟩ := work_inputsConsumed hw
    simp_all
  · obtain ⟨hp, hb, hr, ⟨m, hm, ht⟩, hc⟩ := work_inputsConsumed hw
    simp_all

/-! ## The writers of STREAM and STATE -/

/-- Settles O46: SETSID and RESEED with `IV = 1` are the commands whose `streamAfter` is not STREAM. -/
theorem onlyReseedAndSetsidWriteStream : Obligations.OnlyReseedAndSetsidWriteStream := by
  intro s t h hne
  rcases step_cases h with ⟨hr, -⟩ | ⟨hr, -⟩ | ⟨hr, hw⟩
  · exact .inl hr
  · exact .inl hr
  rcases work_cases hw with ⟨p, -, rfl⟩ | ⟨-, -, rfl⟩ | ⟨c, rest, i, hs, hc, -, hd, he⟩ |
    ⟨c, rest, e, -, -, -, -, rfl⟩
  · exact absurd (runSampling_streamReg p _) hne
  · exact absurd rfl hne
  · refine .inr ⟨c, rest, ⟨hr, hs, hc⟩, ?_⟩
    rw [exec_streamReg he] at hne
    rw [← encode_of_decode hd]
    cases i with
    | setsid => exact .inr (.inr rfl)
    | reseed sv iv =>
      cases iv with
      | false => exact absurd rfl hne
      | true =>
        cases sv
        · exact .inl rfl
        · exact .inr (.inl rfl)
    | _ => exact absurd rfl hne
  · exact absurd rfl hne

/-- Draws of no bits leave the state as it is (R145). -/
theorem drawLoop_of_width_zero {p : Sampling} (h : p.k = 0) (f : Nat) (s : State) : (drawLoop f p s).2 = s := by
  induction f with
  | zero => rfl
  | succ f ih =>
    simp only [drawLoop, h, randbits_zero]
    split
    · rfl
    · exact ih

theorem runSampling_stateReg_of_width_zero {p : Sampling} (h : p.k = 0) (s : State) :
    (runSampling p s).stateReg = s.stateReg := by
  have hz := drawLoop_of_width_zero h s.drawBudget s
  rcases runSampling_cases p s with ⟨r, t, hd, -, he⟩ | ⟨t, hd, he⟩ <;> rw [hd] at hz <;> rw [he, ← hz] <;> rfl

/-- What a command that writes STATE can be (R21). -/
theorem exec_writes_stateReg {i : Instr} {s t : State} (h : exec i s = .next t) (hne : t.stateReg ≠ s.stateReg) :
    (∃ sv iv, i = .reseed sv iv) ∨ i = .setsid ∨ i = .next64 ∨ (i = .randbits ∧ 0 < s.opA) ∨
      (i = .ubelow ∧ 0 < klen s.params.kRule s.opA.toNat) ∨
      ∃ inc, i = .range inc ∧ 0 < klen s.params.kRule (rangeSize s.opA s.opB inc).toNat := by
  cases i with
  | mix64 =>
    rw [execMix64_eq] at h
    rw [← next_inj h] at hne
    exact absurd (respond_stateReg _ _ _) hne
  | tseed =>
    rw [execTseed_eq, timeSeed64_eq] at h
    rw [← next_inj h] at hne
    exact absurd (respond_stateReg _ _ _) hne
  | reseed sv iv => exact .inl ⟨sv, iv, rfl⟩
  | setsid => simp
  | next64 => simp
  | randbits =>
    by_cases hpos : 0 < s.opA
    · simp [hpos]
    · rcases execRandbits_cases s with ⟨-, he⟩ | ⟨-, he⟩ <;> rw [← next_inj (he.symm.trans h)] at hne
      · rw [Int.toNat_of_nonpos (not_lt.mp hpos), randbits_zero] at hne
        exact absurd (respond_stateReg _ _ _) hne
      · exact absurd (respond_stateReg _ _ _) hne
  | ubelow =>
    by_cases hk : klen s.params.kRule s.opA.toNat = 0
    · rcases execUbelow_cases s with ⟨-, he⟩ | ⟨-, he⟩ <;> rw [← next_inj (he.symm.trans h)] at hne
      · exact absurd (runSampling_stateReg_of_width_zero hk s) hne
      · exact absurd (respond_stateReg _ _ _) hne
    · simp [Nat.pos_of_ne_zero hk]
  | range inc =>
    by_cases hk : klen s.params.kRule (rangeSize s.opA s.opB inc).toNat = 0
    · rcases execRange_cases inc s with ⟨-, he⟩ | ⟨-, he⟩ <;> rw [← next_inj (he.symm.trans h)] at hne
      · exact absurd (runSampling_stateReg_of_width_zero hk s) hne
      · exact absurd (respond_stateReg _ _ _) hne
    · simp [Nat.pos_of_ne_zero hk]

/-- Settles O47: the writers among the commands, each by its word. -/
theorem writersOfState : Obligations.WritersOfState := by
  intro s t h hne
  rcases step_cases h with ⟨hr, -⟩ | ⟨hr, -⟩ | ⟨hr, hw⟩
  · exact .inl hr
  · exact .inl hr
  rcases work_cases hw with ⟨p, hs, rfl⟩ | ⟨-, -, rfl⟩ | ⟨c, rest, i, hs, hc, -, hd, he⟩ |
    ⟨c, rest, e, -, -, -, -, rfl⟩
  · exact .inr (.inl (Option.ne_none_iff_exists'.mpr ⟨p, hs⟩))
  · exact absurd rfl hne
  · refine .inr (.inr ⟨c, rest, ⟨hr, hs, hc⟩, ?_⟩)
    rw [← encode_of_decode hd]
    rcases exec_writes_stateReg he hne with ⟨sv, iv, rfl⟩ | rfl | rfl | ⟨rfl, hk⟩ | ⟨rfl, hk⟩ | ⟨inc, rfl, hk⟩
    · exact .inl ⟨sv, iv, decode_encode _⟩
    · exact .inr (.inl rfl)
    · exact .inr (.inr (.inl rfl))
    · exact .inr (.inr (.inr (.inl ⟨rfl, hk⟩)))
    · exact .inr (.inr (.inr (.inr (.inl ⟨rfl, hk⟩))))
    · cases inc
      · exact .inr (.inr (.inr (.inr (.inr (.inl ⟨rfl, by simpa [rangeSize] using hk⟩)))))
      · exact .inr (.inr (.inr (.inr (.inr (.inr ⟨rfl, hk⟩)))))
  · exact absurd rfl hne

/-! ## What stood on the operand and response ports -/

/-- The same state with other values on the operand ports and the response port. -/
def State.withPorts (s : State) (a b : Int) (r : Option Response) : State :=
  { s with opA := a, opB := b, response := r }

/-- From `s`, what is answered as `o` is answered as `o'` when `a` and `b` stand on the operand ports: a refusal is the same;
a next state is the same where a command was taken, whose operands stand on the ports then, and else it is the same but for
the operand ports, which are as before. -/
def PortsForgotten (s : State) (a b : Int) (o o' : Host.Outcome State Fault Refusal) : Prop :=
  (∀ x, o = .refused x → o' = .refused x) ∧
    ∀ t, o = .next t →
      (∃ c, s.commands = c :: t.commands ∧ t.opA = c.a ∧ t.opB = c.b ∧ o' = .next t) ∨
        (t.commands = s.commands ∧ t.opA = s.opA ∧ t.opB = s.opB ∧ o' = .next { t with opA := a, opB := b })

/-- An answer that takes no command and keeps the operand ports forgets what stood there. -/
theorem portsForgotten_next {s t : State} {a b : Int} (hc : t.commands = s.commands) (ha : t.opA = s.opA)
    (hb : t.opB = s.opB) : PortsForgotten s a b (.next t) (.next { t with opA := a, opB := b }) :=
  ⟨fun _ h => (nomatch h), fun _ h => .inr (next_inj h ▸ ⟨hc, ha, hb, rfl⟩)⟩

theorem work_portsForgotten (s : State) (a b : Int) (r : Option Response) :
    PortsForgotten s a b (work s) (work (s.withPorts a b r)) := by
  cases hs : s.sampling with
  | some p =>
    have hran := runSampling_ran p s
    rw [work_inProgress hs, work_inProgress (s := s.withPorts a b r) hs, State.withPorts,
      runSampling_withOthers p s s.sampling r a b]
    obtain ⟨_, _, _, _, _, ht⟩ := hran
    rw [ht]
    exact portsForgotten_next rfl rfl rfl
  | none =>
    cases hc : s.commands with
    | nil =>
      rw [work_idle hs hc, work_idle (s := s.withPorts a b r) hs hc]
      exact portsForgotten_next rfl rfl rfl
    | cons c rest =>
      rw [work_presented hs hc, work_presented (s := s.withPorts a b r) hs hc]
      refine ⟨fun x h => h, fun t h => ?_⟩
      obtain ⟨rfl, ha, hb⟩ := takeCommand_ports h
      exact .inl ⟨c, hc, ha, hb, h⟩

/-- A reset during the step keeps of the operands what the work it cut short left on their ports. -/
theorem step_portsForgotten (s : State) (a b : Int) (r : Option Response) :
    PortsForgotten s a b (step s) (step (s.withPorts a b r)) := by
  have hwork := work_portsForgotten s.tickReset a b r
  cases hin : s.resetInput with
  | deasserted =>
    simp only [step, cycle, hin, show (s.withPorts a b r).resetInput = .deasserted from hin]
    exact hwork
  | asserted =>
    rw [step_asserted hin, step_asserted (s := s.withPorts a b r) hin]
    exact portsForgotten_next rfl rfl rfl
  | assertedDuring m =>
    rcases work_next_or_refused s.tickReset with ⟨u, hu⟩ | ⟨hu, -⟩
    · rw [step_assertedDuring_next hin hu]
      rcases hwork.2 u hu with ⟨c, hc, ha, hb, hu'⟩ | ⟨hc, ha, hb, hu'⟩
      · rw [step_assertedDuring_next (s := s.withPorts a b r) hin hu']
        exact ⟨fun _ h => (nomatch h), fun _ h => .inl ⟨c, next_inj h ▸ ⟨hc, ha, hb, rfl⟩⟩⟩
      · rw [step_assertedDuring_next (s := s.withPorts a b r) hin hu']
        exact portsForgotten_next hc ha hb
    · rw [step_assertedDuring_refused hin hu,
        step_assertedDuring_refused (s := s.withPorts a b r) hin (hwork.1 _ hu)]
      exact portsForgotten_next rfl rfl rfl

/-- Settles O50: whether the presented command has left its port tells the two kinds of next state apart. -/
theorem nothingOfTheLastCommandIsKept : Obligations.NothingOfTheLastCommandIsKept := by
  intro s a b r
  obtain ⟨hrefused, hnext⟩ := step_portsForgotten s a b r
  refine ⟨hrefused, fun t ht => ?_⟩
  rcases hnext t ht with ⟨c, hc, ha, hb, hstep⟩ | ⟨hc, ha, hb, hstep⟩
  · refine ⟨fun d rest hd hrest => ?taken, fun hkept => ?notKept⟩
    case taken =>
      obtain ⟨rfl, -⟩ := List.cons_eq_cons.mp (hc.symm.trans hd)
      exact ⟨ha, hb, hstep⟩
    case notKept => exact absurd (hkept.trans hc) (List.cons_ne_self _ _).symm
  · refine ⟨fun d rest hd hrest => ?notTaken, fun _ => ⟨ha, hb, hstep⟩⟩
    case notTaken => exact absurd (hd.symm.trans (hc.symm.trans hrest)) (List.cons_ne_self _ _)

end Sys2Proof.Machine
end

section
/-! PROOFS. The invariant of the machine (30_encoding.md rules R65, R67; 43_range_sampler.md rules R141, R142, R144): results
fit the result port, and a command in progress is one the range sampler began. -/

namespace Sys2Proof.Machine

/-! ## What fits the result port -/

theorem fits_zero (w : OperandWidth) : w.fits 0 = true := by
  cases w with
  | inf => rfl
  | bits n =>
    have := Int.pow_pos (n := 2) (m := n - 1) (by decide)
    rw [fits_bits_iff]
    omega

/-- `OPW` is at least 65, so that every word fits as the non-negative integer it is (R5, R67). -/
theorem fits_zext {w : OperandWidth} (hw : w.wf = true) (x : Word) : w.fits (zext x) = true := by
  cases w with
  | inf => rfl
  | bits n =>
    have hn : 65 ≤ n := by simpa [OperandWidth.wf] using hw
    have hx : (x.toNat : Int) < 2 ^ 64 := by exact_mod_cast x.isLt
    have hpow : (2 : Int) ^ 64 ≤ 2 ^ (n - 1) := pow_le_pow_right₀ (by decide) (by omega)
    rw [fits_bits_iff, zext]
    omega

/-- A bit count RANDBITS accepts is neither negative nor over `KMAX` (R125). -/
theorem statusRandbits_eq_ok_iff {w : OperandWidth} {k : Int} :
    statusRandbits w k = .ok ↔ 0 ≤ k ∧ ∀ n, w = .bits n → k ≤ ((n - 1 : Nat) : Int) := by
  unfold statusRandbits
  split
  · simp; omega
  · cases w <;> simp [OperandWidth.overCapacity, OperandWidth.kmax] <;> omega

/-- A draw of at most `KMAX` bits fits (R6, R125). -/
theorem fits_randbits {w : OperandWidth} {k : Int} (h : statusRandbits w k = .ok) (s : State) :
    w.fits ((randbits k.toNat s).1 : Int) = true := by
  obtain ⟨hk, hmax⟩ := statusRandbits_eq_ok_iff.mp h
  cases w with
  | inf => rfl
  | bits n =>
    have hle := hmax n rfl
    have hlt : ((randbits k.toNat s).1 : Int) < 2 ^ k.toNat := by exact_mod_cast randbits_lt k.toNat s
    have hpow : (2 : Int) ^ k.toNat ≤ 2 ^ (n - 1) := pow_le_pow_right₀ (by decide) (by omega)
    rw [fits_bits_iff]
    omega

/-! ## The invariant, by what a state answers -/

theorem coreInv_of_response_none {s : State} (hw : s.params.wf = true) (hr : s.response = none)
    (hs : ∀ p ∈ s.sampling, p.legal s.params) : CoreInv s :=
  ⟨hw, by simp [hr], fun p hp => ⟨hs p hp, hr⟩⟩

theorem coreInv_respond {s : State} {st : Status} {r : Option Int} (hw : s.params.wf = true)
    (hst : r.isSome = true → st = .ok) (hr : ∀ v ∈ r, s.params.opw.fits v = true) : CoreInv (s.respond st r) :=
  ⟨hw, by simpa using ⟨hst, hr⟩, by simp⟩

theorem coreInv_respond_none {s : State} (st : Status) (hw : s.params.wf = true) : CoreInv (s.respond st none) :=
  coreInv_respond hw (by simp) (by simp)

theorem coreInv_respond_some {s : State} {v : Int} (hw : s.params.wf = true) (hv : s.params.opw.fits v = true) :
    CoreInv (s.respond .ok (some v)) :=
  coreInv_respond hw (by simp) (by simpa using hv)

/-- An accepted draw lies between the ends of the range, which fit (R144). -/
theorem runSampling_coreInv {p : Sampling} {s : State} (hw : s.params.wf = true) (hp : p.legal s.params) :
    CoreInv (runSampling p s) := by
  have hD := drawLoop_drawn s.drawBudget p s
  rcases runSampling_cases p s with ⟨r, t, hd, hr, he⟩ | ⟨t, hd, he⟩ <;> rw [he] <;> rw [hd] at hD <;>
    obtain ⟨v, m, rfl⟩ := hD
  · obtain ⟨-, -, hlo, hhi⟩ := hp
    exact coreInv_respond_some hw (fits_of_between hlo hhi (by omega) (by omega))
  · exact coreInv_of_response_none hw rfl (by simpa using hp)

/-- UBELOW and RANGE begin a legal command in progress: the ends of its range lie between two integers that fit. -/
theorem startSampling_coreInv {n : Nat} {base : Int} {s : State} (hw : s.params.wf = true) (hn : 1 ≤ n)
    (hlo : s.params.opw.fits base = true) (hhi : s.params.opw.fits (base + n - 1) = true) :
    CoreInv (startSampling n base s) :=
  runSampling_coreInv hw ⟨hn, rfl, hlo, hhi⟩

/-- A command on operands that fit leaves the invariant (R67, R142, R144). -/
theorem exec_coreInv {i : Instr} {s t : State} (hw : s.params.wf = true) (ha : s.params.opw.fits s.opA = true)
    (hb : s.params.opw.fits s.opB = true) (h : exec i s = .next t) : CoreInv t := by
  cases i with
  | mix64 =>
    rw [execMix64_eq] at h
    exact next_inj h ▸ coreInv_respond_some hw (fits_zext hw _)
  | tseed =>
    rw [execTseed_eq, timeSeed64_eq] at h
    exact next_inj h ▸ coreInv_respond_some hw (fits_zext hw _)
  | reseed sv iv =>
    cases sv with
    | true =>
      rw [execReseed_operand_eq] at h
      exact next_inj h ▸ coreInv_respond_some hw (fits_zext hw _)
    | false =>
      rw [execReseed_clock_eq] at h
      exact next_inj h ▸ coreInv_respond_some hw (fits_zext hw _)
  | setsid =>
    rw [execSetsid_clock_eq] at h
    exact next_inj h ▸ coreInv_respond_none .ok hw
  | next64 =>
    obtain ⟨v, m, hu⟩ := nextU64_drawn s
    rw [execNext64_eq, hu] at h
    exact next_inj h ▸ coreInv_respond_some hw (fits_zext hw _)
  | randbits =>
    rcases execRandbits_cases s with ⟨hok, he⟩ | ⟨-, he⟩ <;> rw [← next_inj (he.symm.trans h)]
    · refine coreInv_respond_some ?_ ?_ <;> rw [randbits_params]
      · exact hw
      · exact fits_randbits hok s
    · exact coreInv_respond_none _ hw
  | ubelow =>
    rcases execUbelow_cases s with ⟨hpos, he⟩ | ⟨-, he⟩ <;> rw [← next_inj (he.symm.trans h)]
    · exact startSampling_coreInv hw (by omega) (fits_zero _)
        (fits_of_between (fits_zero _) ha (by omega) (by omega))
    · exact coreInv_respond_none _ hw
  | range inc =>
    rcases execRange_cases inc s with ⟨hpos, he⟩ | ⟨-, he⟩ <;> rw [← next_inj (he.symm.trans h)]
    · have hsize : rangeSize s.opA s.opB inc ≤ s.opB - s.opA + 1 := by unfold rangeSize; split <;> omega
      exact startSampling_coreInv hw (by omega) ha (fits_of_between ha hb (by omega) (by omega))
    · exact coreInv_respond_none _ hw

theorem work_coreInv {s t : State} (hs : CoreInv s) (h : work s = .next t) : CoreInv t := by
  obtain ⟨hw, -, hsampling⟩ := hs
  rcases work_cases h with ⟨p, hp, rfl⟩ | ⟨hnone, -, rfl⟩ | ⟨c, rest, i, -, -, hpres, -, he⟩ |
    ⟨c, rest, e, -, -, -, -, rfl⟩
  · exact runSampling_coreInv hw (hsampling p hp).1
  · exact coreInv_of_response_none hw rfl (by simp [hnone])
  · obtain ⟨ha, hb⟩ := Bool.and_eq_true_iff.mp hpres
    exact exec_coreInv (s := s.accept c rest) hw ha hb he
  · exact coreInv_respond_none .illegal hw

/-- Settles O8: after a reset nothing is in progress and no response is pending; the rest is the work of the core. -/
theorem everyStepKeepsTheInvariant : Obligations.EveryStepKeepsTheInvariant := by
  intro s t hs h
  rcases step_cases h with ⟨-, rfl⟩ | ⟨-, m, u, -, hu, rfl⟩ | ⟨-, hwork⟩
  · exact coreInv_of_response_none hs.1 rfl (by simp)
  · exact coreInv_of_response_none (work_coreInv (s := s.tickReset) hs hu).1 rfl (by simp)
  · exact work_coreInv (s := s.tickReset) hs hwork

/-- Settles O9: the width 128 is legal, and the two ports of the invariant are empty. -/
theorem invariantHoldsAtReset : Obligations.InvariantHoldsAtReset :=
  coreInv_of_response_none rfl rfl (by simp [State.reset])

end Sys2Proof.Machine
end

section
/-! PROOFS. The mixer is a bijection (40_mixer.md rule R92), and what follows from it for seedings (41_seeding.md rules R104,
R108 to R110). -/

namespace Sys2Proof.Machine

/-! ## The mixer is a bijection -/

/-- Only 0 is its own right shift. -/
theorem eq_zero_of_xorShift_eq_zero {n : Nat} (hn : 0 < n) {x : Word} (h : xorShift n x = 0#64) : x = 0#64 := by
  have hshift : x = x >>> n := BitVec.xor_eq_zero_iff.mp h
  have hdiv : x.toNat = x.toNat / 2 ^ n := by
    conv_lhs => rw [hshift]
    rw [BitVec.toNat_ushiftRight, Nat.shiftRight_eq_div_pow]
  have hzero : x.toNat = 0 := by
    by_contra hne
    exact absurd hdiv (Nat.div_lt_self (by omega) (Nat.one_lt_two_pow hn.ne')).ne'
  exact BitVec.eq_of_toNat_eq hzero

theorem xorShift_xor (n : Nat) (x y : Word) : xorShift n (x ^^^ y) = xorShift n x ^^^ xorShift n y := by
  simp only [xorShift, BitVec.ushiftRight_xor_distrib]
  ac_rfl

theorem xorShift_injective {n : Nat} (hn : 0 < n) : Function.Injective (xorShift n) := by
  intro x y h
  apply BitVec.xor_eq_zero_iff.mp
  apply eq_zero_of_xorShift_eq_zero hn
  rw [xorShift_xor, h, BitVec.xor_self]

/-- A multiplier with an inverse modulo `2^64` loses nothing. -/
theorem mul_injective_of_inverse {c d : Word} (h : c * d = 1#64) : Function.Injective (· * c : Word → Word) :=
  Function.LeftInverse.injective (g := (· * d)) fun x => by simp only [BitVec.mul_assoc, h, BitVec.mul_one]

theorem mix64_injective : Function.Injective mix64 :=
  (xorShift_injective (by decide)).comp <|
    (mul_injective_of_inverse (d := 0x319642B2D24D8EC3#64) (by decide)).comp <|
      (xorShift_injective (by decide)).comp <|
        (mul_injective_of_inverse (d := 0x96DE1B173F119089#64) (by decide)).comp <|
          xorShift_injective (by decide)

theorem mix64_zero : mix64 0#64 = 0#64 := by decide

theorem mix64_eq_zero_iff {x : Word} : mix64 x = 0#64 ↔ x = 0#64 :=
  mix64_injective.eq_iff' mix64_zero

/-- Settles O15: an injective function on the finitely many words is onto. -/
theorem mixerIsBijective : Obligations.MixerIsBijective :=
  ⟨Finite.injective_iff_bijective.mp mix64_injective, mix64_zero, fun _ => mix64_eq_zero_iff.mp⟩

/-! ## The zero remap -/

/-- The combination of a seed and an identifier is 0 only when they are equal (R109). -/
theorem combined_eq_zero_iff (x i : Word) : mix64 (mix64 x ^^^ mix64 i) = 0#64 ↔ x = i := by
  rw [mix64_eq_zero_iff, BitVec.xor_eq_zero_iff, mix64_injective.eq_iff]

theorem seedState_same (x : Word) : seedState (mix64 x) x = 1#64 := by
  rw [seedState, if_pos ((combined_eq_zero_iff x x).mpr rfl)]

/-- The STATE a RESEED with a seed leaves. -/
theorem execReseed_operand_stateReg {iv : Bool} {s t : State} (h : exec (.reseed true iv) s = .next t) :
    t.stateReg = seedState (mix64 (mod64 s.opA)) (reseedStream iv s) := by
  rw [← next_inj ((execReseed_operand_eq iv s).symm.trans h), respondWord_eq, respond_stateReg]

/-- Settles O21: every seeding writes a `seedState`, which is 1 for a seed equal to the identifier. -/
theorem seedingRemapsZero : Obligations.SeedingRemapsZero := by
  refine ⟨fun seed sid s => ?neverZero, combined_eq_zero_iff, fun s iv heq => ?answersOne⟩
  case neverZero =>
    cases seed with
    | some v => rw [reseedProc_some]; exact ⟨seedState_ne_zero _ _, rfl⟩
    | none => rw [reseedProc_none]; exact ⟨seedState_ne_zero _ _, rfl⟩
  case answersOne =>
    have hseed : seedState (mix64 (mod64 s.opA)) (reseedStream iv s) = 1#64 := by
      rw [show mod64 s.opA = reseedStream iv s from heq]
      exact seedState_same _
    exact ⟨_, execReseed_operand_eq iv s, hseed, by rw [hseed]; rfl⟩

/-! ## One seed on two streams -/

/-- Two identifiers meet in one STATE only through the zero remap, where the seed is one of them (R110). -/
theorem seedState_collision {x i j : Word} (hij : i ≠ j) (h : seedState (mix64 x) i = seedState (mix64 x) j) :
    seedState (mix64 x) i = 1#64 ∧ (x = i ∨ x = j) := by
  by_cases hi : x = i
  · exact ⟨hi ▸ seedState_same x, .inl hi⟩
  by_cases hj : x = j
  · exact ⟨h.trans (hj ▸ seedState_same x), .inr hj⟩
  rw [seedState, seedState, if_neg (mt (combined_eq_zero_iff x i).mp hi),
    if_neg (mt (combined_eq_zero_iff x j).mp hj)] at h
  exact absurd (mix64_injective ((BitVec.xor_right_inj _).mp (mix64_injective h))) hij

/-- Settles O22: both sequences write the `seedState` of the one seed and of the identifier last stored. -/
theorem streamsWithOneSeedDiffer : Obligations.StreamsWithOneSeedDiffer := by
  refine ⟨fun s u t v iv jv => ?reseeds, fun s u s' u' t v x i j hs' ht hu' hv hij heq => ?sequences⟩
  case reseeds =>
    intro i j ht hv hseed hij heq
    rw [execReseed_operand_stateReg ht, execReseed_operand_stateReg hv,
      show mod64 u.opA = mod64 s.opA from hseed.symm] at heq
    rw [execReseed_operand_stateReg ht]
    exact seedState_collision hij heq
  case sequences =>
    have htState : t.stateReg = seedState (mix64 (mod64 x)) (mod64 i) := by
      rw [execReseed_operand_stateReg ht]
      exact congrArg _ (exec_streamReg hs')
    have hvState : v.stateReg = seedState (mix64 (mod64 x)) (mod64 j) := by
      rw [execReseed_operand_stateReg hv]
      exact congrArg _ (exec_streamReg hu')
    rw [htState, hvState] at heq
    rw [htState]
    exact seedState_collision hij heq

/-! ## Seedings that meet, and what an explicit seed forgets -/

/-- Settles O23: a time-based seeding reads the next clock reading and the identifier, and nothing else. -/
theorem sameReadingSeedingsCollide : Obligations.SameReadingSeedingsCollide := by
  intro s u hread
  refine ⟨fun hstream => ?reseeds, fun hsid => ?setsid, fun hstream hs hu => ?lazySeeds⟩
  case reseeds =>
    refine ⟨_, _, execReseed_clock_eq false s, execReseed_clock_eq false u, ?_⟩
    show seedState _ s.streamReg = seedState _ u.streamReg
    rw [hread, hstream]
  case setsid =>
    refine ⟨_, _, execSetsid_clock_eq s, execReseed_clock_eq true u, ?_, hsid⟩
    show seedState _ (mod64 s.opA) = seedState _ (mod64 u.opB)
    rw [hread, show mod64 s.opA = mod64 u.opB from hsid]
  case lazySeeds =>
    refine ⟨_, _, execNext64_sentinel_eq hs, execNext64_sentinel_eq hu, ?_, ?_⟩
    · show seedState _ s.streamReg + gamma = seedState _ u.streamReg + gamma
      rw [hread, hstream]
    · rw [respondWord_eq, respond_response, respondWord_eq, respond_response, hread, hstream]

/-- The identifier is the same when the operand port or the register it comes from is. -/
theorem reseedStream_congr {iv : Bool} {s u : State}
    (h : if iv then s.opB = u.opB else s.streamReg = u.streamReg) : reseedStream iv s = reseedStream iv u := by
  cases iv with
  | true => exact congrArg mod64 h
  | false => exact h

/-- Settles O24: STATE, STREAM and the response are those of the seed and the identifier; the clock is not sampled. -/
theorem explicitSeedForgetsThePast : Obligations.ExplicitSeedForgetsThePast := by
  intro s u iv hseed hsid
  have hstream := reseedStream_congr hsid
  refine ⟨_, _, execReseed_operand_eq iv s, execReseed_operand_eq iv u, ?_, hstream, ?_, ?_, ?_⟩
  · rw [respondWord_eq, respond_stateReg, respondWord_eq, respond_stateReg, hseed, hstream]
  · rw [respondWord_eq, respond_response, respondWord_eq, respond_response, hseed, hstream]
  · rw [respondWord_eq, respond_timePort]
  · rw [respondWord_eq, respond_clockSamples]

end Sys2Proof.Machine
end

section
/-! PROOFS. The bit engine (42_bit_engine.md rules R120 to R128): the sequence of advances, the words of a draw, and how
RANDBITS composes them. -/

namespace Sys2Proof.Machine

/-! ## Advances -/

/-- GAMMA is odd, so it has an inverse modulo `2^64` (R120). -/
theorem mul_gamma_injective : Function.Injective (· * gamma : Word → Word) :=
  mul_injective_of_inverse (d := 0xF1DE83E19937733D#64) (by decide)

theorem mul_gamma_eq_zero_iff {x : Word} : x * gamma = 0#64 ↔ x = 0#64 :=
  mul_gamma_injective.eq_iff' (BitVec.zero_mul)

theorem add_mul_gamma_succ (x : Word) (j : Nat) :
    x + BitVec.ofNat 64 j * gamma + gamma = x + BitVec.ofNat 64 (j + 1) * gamma := by
  rw [BitVec.ofNat_add, BitVec.add_mul, BitVec.one_mul, BitVec.add_assoc]

theorem advance_iterate_stateReg (j : Nat) (s : State) :
    (advance^[j] s).stateReg = s.stateReg + BitVec.ofNat 64 j * gamma := by
  induction j with
  | zero => simp
  | succ j ih => rw [Function.iterate_succ_apply', advance, writeState_stateReg, ih, add_mul_gamma_succ]

theorem ofNat_eq_zero_iff_dvd (j : Nat) : BitVec.ofNat 64 j = 0#64 ↔ 2 ^ 64 ∣ j := by
  rw [← BitVec.toNat_inj, BitVec.toNat_ofNat, BitVec.toNat_ofNat, Nat.zero_mod, Nat.dvd_iff_mod_eq_zero]

/-- Settles O27: `j` advances add `j` GAMMAs, which is nothing exactly when `j` is 0 modulo `2^64`. -/
theorem advancesVisitAllStates : Obligations.AdvancesVisitAllStates := by
  intro s j
  rw [advance_iterate_stateReg, ← ofNat_eq_zero_iff_dvd, ← mul_gamma_eq_zero_iff, add_eq_left]
  rfl

/-! ## The operand check of RANDBITS -/

theorem statusRandbits_of_neg (w : OperandWidth) {k : Int} (h : k < 0) : statusRandbits w k = .invalidArgument :=
  if_pos h

theorem statusRandbits_of_over {n : Nat} {k : Int} (h : ((n - 1 : Nat) : Int) < k) :
    statusRandbits (.bits n) k = .capacity := by
  rw [statusRandbits, if_neg (by omega), if_pos (by simpa [OperandWidth.overCapacity, OperandWidth.kmax] using h)]

theorem statusRandbits_of_not_overCapacity {w : OperandWidth} {k : Int} (hk : 0 ≤ k) (h : w.overCapacity k = false) :
    statusRandbits w k = .ok := by
  rw [statusRandbits, if_neg hk.not_gt, h, if_neg Bool.false_ne_true]

/-- Settles O28: either error is raised before a draw. -/
theorem randbitsErrors : Obligations.RandbitsErrors := by
  refine ⟨fun s h => ?negative, fun s n hw h => ?capacity⟩
  case negative =>
    have hst := statusRandbits_of_neg s.params.opw h
    rw [execRandbits_of_error (by rw [hst]; decide), hst]
    rfl
  case capacity =>
    have hst : statusRandbits s.params.opw s.opA = .capacity := by rw [hw, statusRandbits_of_over h]
    rw [execRandbits_of_error (by rw [hst]; decide), hst]
    rfl

/-- Settles O30: the check passes, and a draw is below the power of two of its width. -/
theorem randbitsCompletesBelowTwoPow : Obligations.RandbitsCompletesBelowTwoPow := by
  refine ⟨fun fl => decode_append_of_no_flags rfl (by decide), fun s hk hmax => ?_⟩
  refine ⟨_, _, execRandbits_of_ok (statusRandbits_eq_ok_iff.mpr ⟨hk, hmax⟩), respond_response _ _ _, ?_, ?_, rfl, ?_⟩
  · exact Int.natCast_nonneg _
  · exact_mod_cast randbits_lt s.opA.toNat s
  · rw [respondOk_eq, respond_streamReg, randbits_streamReg]

/-! ## One word -/

/-- A draw of 64 bits is one whole word (R127). -/
theorem randbits_sixtyFour (s : State) : randbits 64 s = ((nextU64 s).1.toNat, (nextU64 s).2) := by
  simp [randbits, wordsFor, randLoop]

/-- Settles O32: the same word answered in the same state. -/
theorem randbits64IsNext64 : Obligations.Randbits64IsNext64 := by
  intro s hk hw
  rw [execRandbits_of_ok (by rw [hk]; exact statusRandbits_of_not_overCapacity (by decide) hw), hk,
    show (64 : Int).toNat = 64 from rfl, randbits_sixtyFour, execNext64_eq, respondOk_eq, respondWord_eq, zext]

/-- The `j`-th word drawn from `s`, counted from 0. -/
def drawnWord (s : State) (j : Nat) : Nat := (mix64 (nextWord^[j + 1] s).stateReg).toNat

theorem drawnWord_succ (s : State) (j : Nat) : drawnWord s (j + 1) = drawnWord (nextWord s) j := by
  rw [drawnWord, drawnWord, Function.iterate_succ_apply]

/-- The word a draw gives is the mix of the STATE it leaves (R121). -/
theorem nextU64_toNat (s : State) : (nextU64 s).1.toNat = drawnWord s 0 := rfl

/-! ## The composition of words -/

/-- The `k`-bit number made of the words: most significant chunk first, the last word cut to its top `k mod 64` bits when
`k` is no multiple of 64 (R124). -/
def composeWords (word : Nat → Nat) (k : Nat) : Nat :=
  (∑ j ∈ Finset.range (k / 64), word j * 2 ^ (k - 64 * (j + 1)))
    + (if k % 64 = 0 then 0 else word (k / 64) / 2 ^ (64 - k % 64))

@[simp] theorem composeWords_zero (word : Nat → Nat) : composeWords word 0 = 0 := rfl

theorem composeWords_of_lt {k : Nat} (word : Nat → Nat) (h0 : k ≠ 0) (h : k < 64) :
    composeWords word k = word 0 / 2 ^ (64 - k) := by
  simp [composeWords, Nat.div_eq_of_lt h, Nat.mod_eq_of_lt h, h0]

theorem composeWords_add (word : Nat → Nat) (k : Nat) :
    composeWords word (k + 64) = word 0 * 2 ^ k + composeWords (fun j => word (j + 1)) k := by
  have hexp (j : Nat) : k + 64 - 64 * (j + 1 + 1) = k - 64 * (j + 1) := by omega
  simp only [composeWords, Nat.add_div_right k (show 0 < 64 by decide), Nat.add_mod_right,
    Finset.sum_range_succ', hexp]
  rw [show k + 64 - 64 * (0 + 1) = k by omega]
  omega

/-- The first chunk of a composition, and the rest. -/
theorem composeWords_chunk {k : Nat} (word : Nat → Nat) (h0 : k ≠ 0) :
    composeWords word k =
      word 0 / 2 ^ (64 - min 64 k) * 2 ^ (k - min 64 k) + composeWords (fun j => word (j + 1)) (k - min 64 k) := by
  rcases Nat.lt_or_ge k 64 with h | h
  · simp [Nat.min_eq_right h.le, composeWords_of_lt word h0 h]
  · obtain ⟨m, rfl⟩ := Nat.exists_eq_add_of_le' h
    simp [composeWords_add]

/-- Words that agree where the composition looks compose alike. -/
theorem composeWords_congr {f g : Nat → Nat} {k : Nat} (h : ∀ j, j < wordsFor k → f j = g j) :
    composeWords f k = composeWords g k := by
  unfold wordsFor at h
  unfold composeWords
  congr 1
  · exact Finset.sum_congr rfl fun j hj => by rw [h j (by have := Finset.mem_range.mp hj; omega)]
  · split
    · rfl
    · rw [h (k / 64) (by omega)]

/-- A chunk of `t` bits appended by shift and OR is a sum (R11). -/
theorem shiftLeft_or_shiftRight (r t : Nat) (w : Word) (ht : t ≤ 64) :
    (r <<< t) ||| (w.toNat >>> (64 - t)) = r * 2 ^ t + w.toNat / 2 ^ (64 - t) := by
  have hlt : w.toNat >>> (64 - t) < 2 ^ t := by
    rw [Nat.shiftRight_eq_div_pow, Nat.div_lt_iff_lt_mul (by positivity), ← Nat.pow_add, Nat.add_sub_cancel' ht]
    exact w.isLt
  rw [← Nat.shiftLeft_add_eq_or_of_lt hlt, Nat.shiftLeft_eq, Nat.shiftRight_eq_div_pow]

/-- The word loop appends the composition of the words it draws to the bits it starts with (R124). -/
theorem randLoop_composes (fuel rem r : Nat) (s : State) (h : fuel = wordsFor rem) :
    (randLoop fuel rem r s).1 = r * 2 ^ rem + composeWords (drawnWord s) rem := by
  induction fuel generalizing rem r s with
  | zero =>
    have hrem : rem = 0 := by simp only [wordsFor] at h; omega
    simp [hrem, randLoop]
  | succ f ih =>
    have hrem : rem ≠ 0 := by rintro rfl; simp [wordsFor] at h
    have hfuel : f = wordsFor (rem - min 64 rem) := by simp only [wordsFor] at h ⊢; omega
    have hpow : 2 ^ rem = 2 ^ min 64 rem * 2 ^ (rem - min 64 rem) := by
      rw [← Nat.pow_add, Nat.add_sub_cancel' (Nat.min_le_right _ _)]
    simp only [randLoop, if_neg hrem]
    rw [ih _ _ _ hfuel, shiftLeft_or_shiftRight _ _ _ (Nat.min_le_left _ _), composeWords_chunk _ hrem, nextU64_toNat,
      hpow]
    simp only [drawnWord_succ]
    rw [← nextWord]
    ring

/-- What a draw of `k` bits gives (R124). -/
theorem randbits_composes (k : Nat) (s : State) : (randbits k s).1 = composeWords (drawnWord s) k := by
  rw [randbits, randLoop_composes _ _ _ _ rfl, Nat.zero_mul, Nat.zero_add]

/-- RANDBITS of an accepted count, by its words. -/
theorem execRandbits_words {s : State} {k : Nat} (hk : s.opA = (k : Int))
    (hmax : ∀ n, s.params.opw = .bits n → k ≤ n - 1) :
    exec .randbits s =
      .next ((nextWord^[wordsFor k] s).respond .ok (some (composeWords (drawnWord s) k : Nat))) := by
  have hok : statusRandbits s.params.opw s.opA = .ok :=
    statusRandbits_eq_ok_iff.mpr ⟨by omega, fun n hn => by have := hmax n hn; omega⟩
  rw [execRandbits_of_ok hok, hk, Int.toNat_natCast, randbits_words, randbits_composes, respondOk_eq]

/-! ## Runs that do not meet the sentinel -/

/-- Words that do not start from the sentinel only advance STATE (R121). -/
theorem nextWord_iterate_initialised (s : State) (m : Nat)
    (h : ∀ j, j < m → s.stateReg + BitVec.ofNat 64 j * gamma ≠ 0#64) :
    nextWord^[m] s = { s with stateReg := s.stateReg + BitVec.ofNat 64 m * gamma } := by
  induction m with
  | zero => simp
  | succ m ih =>
    rw [Function.iterate_succ_apply', ih fun j hj => h j (by omega), nextWord,
      nextU64_initialised _ (h m (Nat.lt_succ_self m)), add_mul_gamma_succ]

/-- Settles O31: every word the composition looks at is the mix of an advance that is no sentinel's. -/
theorem randbitsComposesTheWords : Obligations.RandbitsComposesTheWords := by
  intro s k hk hmax hne word
  have hword : composeWords (drawnWord s) k = composeWords word k := composeWords_congr fun j hj => by
    rw [drawnWord, nextWord_iterate_initialised s (j + 1) fun i hi => hne i (by unfold wordsFor at hj; omega)]
    rfl
  rw [execRandbits_words hk hmax, hword, nextWord_iterate_initialised s (wordsFor k) hne]
  rfl

/-! ## Runs that start from the sentinel or meet it -/

theorem lazySeed_sentinel {s : State} (h : s.stateReg = 0#64) :
    lazySeed s =
      { s with
        stateReg := seedState (seedOfReading s.reading) s.streamReg
        timePort := s.timePort.tail
        clockSamples := s.clockSamples + 1 } := by
  rw [lazySeed, if_pos h, reseedProc_none, Option.getD_none]

theorem lazySeed_initialised {s : State} (h : s.stateReg ≠ 0#64) : lazySeed s = s := if_neg h

/-- After the lazy seed STATE is no sentinel (R109, R122). -/
theorem lazySeed_stateReg_ne_zero (s : State) : (lazySeed s).stateReg ≠ 0#64 := by
  by_cases h : s.stateReg = 0#64
  · rw [lazySeed_sentinel h]
    exact seedState_ne_zero _ _
  · rwa [lazySeed_initialised h]

theorem nextWord_eq (s : State) : nextWord s = advance (lazySeed s) := rfl

/-- The first word is the same when its lazy seed has been made before. -/
theorem nextWord_lazySeed (s : State) : nextWord (lazySeed s) = nextWord s := by
  rw [nextWord_eq, nextWord_eq, lazySeed_initialised (lazySeed_stateReg_ne_zero s)]

theorem nextWord_iterate_lazySeed (m : Nat) (s : State) : nextWord^[m + 1] (lazySeed s) = nextWord^[m + 1] s := by
  rw [Function.iterate_succ_apply, Function.iterate_succ_apply, nextWord_lazySeed]

theorem drawnWord_lazySeed (s : State) : drawnWord (lazySeed s) = drawnWord s := by
  funext j
  rw [drawnWord, drawnWord, nextWord_iterate_lazySeed]

/-- RANDBITS of some bits makes the lazy seed first, if there is one to make (R122, R128). -/
theorem execRandbits_lazySeed {s : State} {k : Nat} (h0 : 0 < k) (hk : s.opA = (k : Int))
    (hmax : ∀ n, s.params.opw = .bits n → k ≤ n - 1) : exec .randbits s = exec .randbits (lazySeed s) := by
  have hframe : (lazySeed s).opA = s.opA ∧ (lazySeed s).params = s.params := by
    by_cases h : s.stateReg = 0#64
    · rw [lazySeed_sentinel h]; exact ⟨rfl, rfl⟩
    · rw [lazySeed_initialised h]; exact ⟨rfl, rfl⟩
  obtain ⟨m, hm⟩ : ∃ m, wordsFor k = m + 1 := ⟨wordsFor k - 1, by unfold wordsFor; omega⟩
  rw [execRandbits_words hk hmax, execRandbits_words (hframe.1.trans hk) (by rwa [hframe.2]), hm,
    nextWord_iterate_lazySeed, drawnWord_lazySeed]

/-- Settles O59: the statement's lazy seed and word are those of the model. -/
theorem randbitsThroughTheSentinel : Obligations.RandbitsThroughTheSentinel := by
  unfold Obligations.RandbitsThroughTheSentinel
  intro lazy next
  have hlazy (u : State) (h : u.stateReg = 0#64) : lazy u = lazySeed u := (lazySeed_sentinel h).symm
  have hnext : next = nextWord := by
    funext u
    rw [nextWord_eq]
    by_cases h : u.stateReg = 0#64
    · simp only [next, if_pos h, hlazy u h]
      rfl
    · simp only [next, if_neg h, lazySeed_initialised h]
      rfl
  refine ⟨fun s k hk hmax => ?words, fun s h0 hpos hmax => ?fromSentinel⟩
  case words =>
    rw [hnext]
    exact execRandbits_words hk hmax
  case fromSentinel =>
    rw [hlazy s h0]
    exact execRandbits_lazySeed (k := s.opA.toNat) (by omega) (by omega) fun n hn => by
      have := hmax n hn
      omega

/-- The two words of a 128-bit composition. -/
theorem composeWords_128 (word : Nat → Nat) : composeWords word 128 = word 0 * 2 ^ 64 + word 1 := by
  simp [composeWords, Finset.sum_range_succ]

/-- NEXT64, by its one word. -/
theorem execNext64_words (s : State) :
    exec .next64 s = .next ((nextWord s).respond .ok (some (drawnWord s 0 : Nat))) := by
  rw [execNext64_eq, respondWord_eq, zext, nextU64_toNat, nextWord]

/-- A request of 128 bits whose first word is 0 is answered by the second word alone. -/
theorem execRandbits_128_of_zero {s : State} (hk : s.opA = 128) (hmax : ∀ n, s.params.opw = .bits n → 128 ≤ n - 1)
    (h : drawnWord s 0 = 0) : exec .randbits s = exec .next64 (nextWord s) := by
  rw [execRandbits_words (k := 128) hk hmax, composeWords_128, h, Nat.zero_mul, Nat.zero_add, drawnWord_succ,
    execNext64_words]
  rfl

/-- Settles O26: `2^64 - GAMMA` advances to the sentinel, whose mix is 0; a second word starts from there. -/
theorem advanceCanReachTheSentinel : Obligations.AdvanceCanReachTheSentinel := by
  intro s hs
  have hne : s.stateReg ≠ 0#64 := by rw [hs]; decide
  have hadvance : s.stateReg + gamma = 0#64 := by rw [hs]; decide
  refine ⟨?next64, fun hk hw => ?randbits⟩
  case next64 =>
    rw [execNext64_initialised_eq hne, hadvance, mix64_zero, respondWord_eq, State.respond, zext]
    rfl
  case randbits =>
    have hok := statusRandbits_eq_ok_iff.mp (statusRandbits_of_not_overCapacity (by decide) hw)
    have hfirst : nextWord s = { s with stateReg := 0#64 } := by rw [nextWord, nextU64_initialised s hne, hadvance]
    have hzero : drawnWord s 0 = 0 := by
      rw [drawnWord, Function.iterate_one, hfirst, mix64_zero]
      rfl
    rw [execRandbits_128_of_zero hk (fun n hn => by have := hok.2 n hn; omega) hzero, hfirst,
      execNext64_sentinel_eq rfl, respondWord_eq, State.respond, zext, gamma, seedState, seedOfReading,
      show ({ s with stateReg := 0#64 } : State).reading = s.reading from rfl]

end Sys2Proof.Machine
end

section
/-! PROOFS. The range sampler (43_range_sampler.md rules R140 to R146; 92_eei_decisions.md D10): the draw width, the first draw,
the rejection loop over several steps, and its clock samples (70_reset_and_hazards.md rule R229). -/

namespace Sys2Proof.Machine

/-! ## The draw width -/

theorem ceilLog2_le_iff (n k : Nat) : ceilLog2 n ≤ k ↔ n ≤ 2 ^ k := by
  unfold ceilLog2
  split
  · have := Nat.one_le_two_pow (n := k)
    omega
  · rw [Nat.succ_le_iff, Nat.log2_lt (by omega)]
    omega

theorem bitlen_le_iff {n : Nat} (hn : 1 ≤ n) (k : Nat) : bitlen n ≤ k ↔ n < 2 ^ k := by
  rw [bitlen, Nat.succ_le_iff, Nat.log2_lt (by omega)]

@[simp] theorem klen_ceilLog2 (n : Nat) : klen .ceilLog2 n = ceilLog2 n := rfl
@[simp] theorem klen_bitlen (n : Nat) : klen .bitlen n = bitlen n := rfl

theorem ceilLog2_two_pow (e : Nat) : ceilLog2 (2 ^ e) = e :=
  eq_of_forall_ge_iff fun k => by rw [ceilLog2_le_iff, Nat.pow_le_pow_iff_right (by decide)]

theorem bitlen_two_pow (e : Nat) : bitlen (2 ^ e) = e + 1 :=
  eq_of_forall_ge_iff fun k => by
    rw [bitlen_le_iff Nat.one_le_two_pow, Nat.pow_lt_pow_iff_right (by decide), Nat.succ_le_iff]

theorem bitlen_eq_ceilLog2 {n : Nat} (hn : 1 ≤ n) (h : ¬∃ e, n = 2 ^ e) : bitlen n = ceilLog2 n :=
  eq_of_forall_ge_iff fun k => by
    rw [bitlen_le_iff hn, ceilLog2_le_iff, Nat.le_iff_lt_or_eq, or_iff_left fun hk => h ⟨k, hk⟩]

/-- Settles O33: either width is least by its bound on every other; two widths bounded alike are equal. -/
theorem drawWidthsAreLeast : Obligations.DrawWidthsAreLeast := by
  intro n hn
  refine ⟨⟨?_, fun k => (ceilLog2_le_iff n k).mpr⟩, ⟨?_, fun k => (bitlen_le_iff hn k).mpr⟩, ?_,
    bitlen_eq_ceilLog2 hn⟩
  · exact (ceilLog2_le_iff n _).mp (Nat.le_refl _)
  · exact (bitlen_le_iff hn _).mp (Nat.le_refl _)
  · rintro ⟨e, rfl⟩
    rw [klen_bitlen, klen_ceilLog2, bitlen_two_pow, ceilLog2_two_pow]

/-! ## The first draw -/

theorem drawLoop_of_accept {p : Sampling} {s : State} (h : (randbits p.k s).1 < p.n) (f : Nat) :
    drawLoop (f + 1) p s = (some (randbits p.k s).1, (randbits p.k s).2) := by
  rw [drawLoop, if_pos h]

theorem drawLoop_of_reject {p : Sampling} {s : State} (h : p.n ≤ (randbits p.k s).1) (f : Nat) :
    drawLoop (f + 1) p s = drawLoop f p (randbits p.k s).2 := by
  rw [drawLoop, if_neg h.not_gt]

theorem runSampling_of_accept {p : Sampling} {s : State} (hb : 1 ≤ s.drawBudget) (h : (randbits p.k s).1 < p.n) :
    runSampling p s = (randbits p.k s).2.respond .ok (some (p.base + (randbits p.k s).1)) := by
  obtain ⟨b, hb⟩ := Nat.exists_eq_add_of_le' hb
  rw [runSampling_some ((congrArg (drawLoop · p s) hb).trans (drawLoop_of_accept h b)), respondOk_eq]

/-- UBELOW whose first draw is below the bound (R141, R142). -/
theorem execUbelow_of_accept {s : State} {k : Nat} (hk : klen s.params.kRule s.opA.toNat = k) (hb : 1 ≤ s.drawBudget)
    (h : ((randbits k s).1 : Int) < s.opA) :
    exec .ubelow s = .next ((randbits k s).2.respond .ok (some ((randbits k s).1 : Int))) := by
  subst hk
  rw [execUbelow_of_pos (by omega), startSampling, runSampling_of_accept hb (by simp only; omega), Int.zero_add]

/-- RANGE whose first draw is below the size of the range (R141, R144). -/
theorem execRange_of_accept {inc : Bool} {s : State} {k : Nat}
    (hk : klen s.params.kRule (rangeSize s.opA s.opB inc).toNat = k) (hb : 1 ≤ s.drawBudget)
    (h : ((randbits k s).1 : Int) < rangeSize s.opA s.opB inc) :
    exec (.range inc) s = .next ((randbits k s).2.respond .ok (some (s.opA + (randbits k s).1))) := by
  subst hk
  rw [execRange_of_pos (by omega), startSampling, runSampling_of_accept hb (by simp only; omega)]

/-- Settles O34: the bound is above the power of two that the shorter draw stays below, since the width is least. -/
theorem drawWithTopBitZeroIsAccepted : Obligations.DrawWithTopBitZeroIsAccepted := by
  intro s hrule hA hb k hdraw
  have hk : 2 ^ (k - 1) < s.opA.toNat := by
    have hpos : 0 < k := Nat.pos_of_ne_zero fun h0 => by
      have := (ceilLog2_le_iff s.opA.toNat 0).mp h0.le
      omega
    by_contra hle
    have := (ceilLog2_le_iff s.opA.toNat (k - 1)).mpr (not_lt.mp hle)
    simp only [k, klen_ceilLog2] at hpos this
    omega
  exact execUbelow_of_accept (congrArg (klen · _) hrule) hb (by omega)

/-- Settles O40. -/
theorem rangeAddsTheDrawToMin : Obligations.RangeAddsTheDrawToMin :=
  fun _ _ hb _ hd => execRange_of_accept rfl hb hd

/-- Settles O37: a draw as wide as a power of two is below it. -/
theorem ubelowOfPowerOfTwo : Obligations.UbelowOfPowerOfTwo := by
  intro s k hrule hA hb
  have hnat : s.opA.toNat = 2 ^ k := by rw [hA]; exact_mod_cast Int.toNat_natCast (2 ^ k)
  have hwidth : klen s.params.kRule s.opA.toNat = k := by rw [hrule, hnat, klen_ceilLog2, ceilLog2_two_pow]
  have hexec := execUbelow_of_accept hwidth hb (by rw [hA]; exact_mod_cast randbits_lt k s)
  refine ⟨hexec, ?_⟩
  rintro rfl
  rw [hexec, randbits_sixtyFour, execNext64_eq, respondWord_eq, zext]

/-! ## What a sampled result can be -/

/-- A result of the loop lies between the base and the base plus the bound (R141, R146). -/
theorem runSampling_result {p : Sampling} {s : State} {v : Int}
    (h : (runSampling p s).response = some ⟨.ok, some v⟩) : p.base ≤ v ∧ v < p.base + p.n := by
  rcases runSampling_response p s with ⟨⟨r, hr, hresp⟩, -⟩ | ⟨hresp, -⟩ <;> rw [hresp] at h
  · simp only [Option.some.injEq, Response.mk.injEq, true_and] at h
    omega
  · cases h

theorem execUbelow_result {s t : State} {v : Int} (h : exec .ubelow s = .next t)
    (hr : t.response = some ⟨.ok, some v⟩) : 0 ≤ v ∧ v < s.opA := by
  rcases execUbelow_cases s with ⟨hpos, he⟩ | ⟨-, he⟩ <;> rw [← next_inj (he.symm.trans h)] at hr
  · have := runSampling_result hr
    simp only at this
    omega
  · cases hr

theorem execRange_result {inc : Bool} {s t : State} {v : Int} (h : exec (.range inc) s = .next t)
    (hr : t.response = some ⟨.ok, some v⟩) : s.opA ≤ v ∧ v < s.opA + rangeSize s.opA s.opB inc := by
  rcases execRange_cases inc s with ⟨hpos, he⟩ | ⟨-, he⟩ <;> rw [← next_inj (he.symm.trans h)] at hr
  · have := runSampling_result hr
    simp only at this
    omega
  · cases hr

@[simp] theorem rangeSize_inclusive (a b : Int) : rangeSize a b true = b - a + 1 := rfl
@[simp] theorem rangeSize_exclusive (a b : Int) : rangeSize a b false = b - a := Int.add_zero _

/-- Settles O41: the bounds of the loop's result, with the size of each range put in. -/
theorem sampledValuesAreInRange : Obligations.SampledValuesAreInRange := by
  intro s t v hr
  refine ⟨fun h => execUbelow_result h hr, fun h => ?inclusive, fun h => ?exclusive, fun p hs h => ?inProgress⟩
  case inclusive =>
    have := execRange_result h hr
    rw [rangeSize_inclusive] at this
    omega
  case exclusive =>
    have := execRange_result h hr
    rw [rangeSize_exclusive] at this
    omega
  case inProgress =>
    rcases step_cases h with ⟨-, rfl⟩ | ⟨-, m, u, -, -, rfl⟩ | ⟨-, hw⟩
    · cases hr
    · cases hr
    · rw [work_inProgress (s := s.tickReset) hs] at hw
      exact runSampling_result (next_inj hw ▸ hr)

/-- Settles O38: a draw of no bits is 0, and 0 is the only number below 1. -/
theorem oneValueRanges : Obligations.OneValueRanges := by
  refine ⟨fun s hrule hb => ⟨fun hA => ?ubelow, fun hAB => ?range⟩, fun s t v hr => ⟨fun hA h => ?ubelowOnly,
    fun hAB h => ?rangeOnly⟩⟩
  case ubelow =>
    have hk : klen s.params.kRule s.opA.toNat = 0 := by rw [hrule, hA]; rfl
    rw [execUbelow_of_accept hk hb (by simp [hA]), randbits_zero]
    rfl
  case range =>
    have hsize : rangeSize s.opA s.opB true = 1 := by rw [rangeSize_inclusive]; omega
    have hk : klen s.params.kRule (rangeSize s.opA s.opB true).toNat = 0 := by rw [hrule, hsize]; rfl
    rw [execRange_of_accept hk hb (by simp [hsize]), randbits_zero, Int.natCast_zero, Int.add_zero, State.respond]
  case ubelowOnly =>
    have := execUbelow_result h hr
    omega
  case rangeOnly =>
    have := execRange_result h hr
    rw [rangeSize_inclusive] at this
    omega

/-! ## Errors of UBELOW and RANGE -/

/-- Settles O35. -/
theorem ubelowErrors : Obligations.UbelowErrors :=
  ⟨fun _ => decode_append_of_no_flags rfl (by decide), fun _ => execUbelow_of_nonpos⟩

/-- The flag check of RANGE looks at bits 1 to 3 and at nothing else (R62, R69). -/
theorem range_flags_legal_iff (fl : BitVec 4) :
    fl &&& mustBeZero 0x8#4 = 0 ↔ ¬(fl.getLsbD 1 || fl.getLsbD 2 || fl.getLsbD 3) = true := by
  revert fl
  decide

/-- RANGE answers INVALID_RANGE exactly when its range has no element (R144). -/
theorem execRange_invalid {inc : Bool} {s t : State} (h : exec (.range inc) s = .next t) :
    (t.response = some ⟨.invalidRange, none⟩ ↔ rangeSize s.opA s.opB inc ≤ 0) ∧
      (rangeSize s.opA s.opB inc ≤ 0 → t = s.raise .invalidRange) := by
  rcases execRange_cases inc s with ⟨hpos, he⟩ | ⟨hle, he⟩ <;> rw [← next_inj (he.symm.trans h)]
  · refine ⟨⟨fun hr => ?_, fun hle => absurd hpos hle.not_gt⟩, fun hle => absurd hpos hle.not_gt⟩
    exact absurd (runSampling_noError _ _ _ hr) (by decide)
  · exact ⟨⟨fun _ => hle, fun _ => rfl⟩, fun _ => rfl⟩

/-- Settles O39: the size `B - A + INC` is not positive exactly on an empty range. -/
theorem rangeErrors : Obligations.RangeErrors := by
  refine ⟨fun fl => ?decodes, fun s t => ⟨fun h => ?inclusive, fun h => ?exclusive⟩⟩
  case decodes =>
    rw [decode_append_of_opcodeMap rfl, if_congr (range_flags_legal_iff fl) rfl rfl, ite_not, flagINC]
  case inclusive =>
    have hempty : rangeSize s.opA s.opB true ≤ 0 ↔ s.opB < s.opA := by rw [rangeSize_inclusive]; omega
    rw [← hempty]
    exact execRange_invalid h
  case exclusive =>
    have hempty : rangeSize s.opA s.opB false ≤ 0 ↔ s.opB ≤ s.opA := by rw [rangeSize_exclusive]; omega
    rw [← hempty]
    exact execRange_invalid h

/-! ## Rejected draws -/

theorem runSampling_withBudget_some {p : Sampling} {s t : State} {b r : Nat} (h : drawLoop b p s = (some r, t)) :
    runSampling p { s with drawBudget := b } = { t.respondOk (p.base + r) with drawBudget := b } := by
  have hloop := drawLoop_withOthers b p s s.sampling s.response s.opA s.opB s.resetPort b
  have hD := drawLoop_drawn b p s
  rw [h] at hloop hD
  obtain ⟨w, m, rfl⟩ := hD
  exact runSampling_some (s := { s with drawBudget := b }) hloop

theorem runSampling_withBudget_none {p : Sampling} {s t : State} {b : Nat} (h : drawLoop b p s = (none, t)) :
    runSampling p { s with drawBudget := b } = { t.keepSampling p with drawBudget := b } := by
  have hloop := drawLoop_withOthers b p s s.sampling s.response s.opA s.opB s.resetPort b
  have hD := drawLoop_drawn b p s
  rw [h] at hloop hD
  obtain ⟨w, m, rfl⟩ := hD
  exact runSampling_none (s := { s with drawBudget := b }) hloop

theorem drawLoop_drawBudget (f : Nat) (p : Sampling) (s : State) : (drawLoop f p s).2.drawBudget = s.drawBudget := by
  obtain ⟨v, m, h⟩ := drawLoop_drawn f p s
  rw [h]

/-- After a rejected draw the loop goes on from the state the draw left, with one draw fewer in the step (R141). -/
theorem runSampling_of_reject {p : Sampling} {s : State} {b : Nat} (hb : s.drawBudget = b + 1)
    (h : p.n ≤ (randbits p.k s).1) :
    runSampling p s = { runSampling p { (randbits p.k s).2 with drawBudget := b } with drawBudget := b + 1 } := by
  have hloop : drawLoop s.drawBudget p s = drawLoop b p (randbits p.k s).2 := by rw [hb, drawLoop_of_reject h]
  have hbudget := drawLoop_drawBudget b p (randbits p.k s).2
  rw [randbits_drawBudget, hb] at hbudget
  rcases hd : drawLoop b p (randbits p.k s).2 with ⟨_ | r, t⟩ <;> rw [hd] at hbudget
  · rw [runSampling_none (hloop.trans hd), runSampling_withBudget_none hd, ← hbudget]
    rfl
  · rw [runSampling_some (hloop.trans hd), runSampling_withBudget_some hd, ← hbudget]
    rfl

/-- Settles O36: the bound and the width of the loop are the same after the rejected draw. -/
theorem ubelowDrawsUntilBelow : Obligations.UbelowDrawsUntilBelow := by
  intro s b hA hb d
  refine ⟨fun hlt => execUbelow_of_accept rfl (by omega) hlt, fun hle t ht => ?_⟩
  have hopA : d.2.opA = s.opA := randbits_opA _ s
  have hparams : d.2.params = s.params := randbits_params _ s
  have hloop : startSampling d.2.opA.toNat 0 { d.2 with drawBudget := b } =
      runSampling ⟨s.opA.toNat, klen s.params.kRule s.opA.toNat, 0⟩ { d.2 with drawBudget := b } := by
    rw [startSampling, hparams, hopA]
  rw [execUbelow_of_pos (s := { d.2 with drawBudget := b }) (hA.trans_eq hopA.symm), hloop] at ht
  rw [← next_inj ht, execUbelow_of_pos hA, startSampling, runSampling_of_reject hb (Int.toNat_le.mpr hle)]

/-! ## UBELOW and RANGE as one loop -/

/-- Settles O42: the range from 0 to `n` without `n` has size `n` and base 0. -/
theorem ubelowIsRangeFromZero : Obligations.UbelowIsRangeFromZero := by
  intro s n b hn
  have hsize : rangeSize 0 n false = n := by rw [rangeSize_exclusive, Int.sub_zero]
  have hloop (x y : Int) := runSampling_withOthers ⟨n.toNat, klen s.params.kRule n.toNat, 0⟩ s s.sampling s.response x y
  refine ⟨startSampling n.toNat 0 s, ?_, ?_⟩
  · rw [execUbelow_of_pos (s := { s with opA := n, opB := b }) (by simp only; omega)]
    exact congrArg _ (hloop n b)
  · rw [execRange_of_pos (s := { s with opA := 0, opB := n }) (by simp only [hsize]; omega), startSampling]
    simp only [hsize]
    exact congrArg _ (hloop 0 n)

theorem resetAsserted_of_nil {s : State} (h : s.resetPort = []) : s.resetAsserted = false := by
  simp [State.resetAsserted, State.resetInput, h]

theorem tickReset_of_nil {s : State} (h : s.resetPort = []) : s.tickReset = s := by
  rw [State.tickReset, h, List.tail_nil, ← h]

/-- With no reset listed, a step of a command in progress is one run of its loop. -/
theorem step_inProgress_of_nil {s : State} {p : Sampling} (hr : s.resetPort = []) (hs : s.sampling = some p) :
    step s = .next (runSampling p s) := by
  rw [step_inProgress (resetAsserted_of_nil hr) hs, tickReset_of_nil hr]

/-- The loop overwrites the field of the command in progress and does not read it. -/
theorem runSampling_withSampling (p : Sampling) (s : State) (sm : Option Sampling) :
    runSampling p { s with sampling := sm } = runSampling p s := by
  have hran := runSampling_ran p s
  have hloop := runSampling_withOthers p s sm s.response s.opA s.opB
  rw [hran.withOpB_eq] at hloop
  obtain ⟨_, _, _, _, _, ht⟩ := hran
  rw [ht] at hloop ⊢
  exact hloop

/-- With no reset listed and the loop `p` in progress, a step runs it from where the state stands. -/
theorem step_withSampling {s : State} (hr : s.resetPort = []) (p : Sampling) :
    step { s with sampling := some p } = .next (runSampling p s) := by
  rw [step_inProgress_of_nil (s := { s with sampling := some p }) hr rfl, runSampling_withSampling]

/-- Settles O43: the command in progress is the loop the command begins. -/
theorem commandsBeginTheSamplerLoop : Obligations.CommandsBeginTheSamplerLoop := by
  intro s hr
  refine ⟨fun hA => ?ubelow, fun inc => ?range⟩
  case ubelow => rw [execUbelow_of_pos hA, step_withSampling hr, startSampling]
  case range =>
    intro n hn
    rw [execRange_of_pos hn, step_withSampling hr, startSampling]
    rfl

/-! ## The loop over several steps -/

theorem steps_succ_of_next {s t : State} (h : step s = .next t) (j : Nat) : steps (j + 1) s = steps j t := by
  rw [steps, h]

/-- Settles O44, by induction on the steps: the first step accepts one of its draws, or leaves the state from which the other
steps go on with the loop. -/
theorem stepsAreTheRejectionLoop : Obligations.StepsAreTheRejectionLoop := by
  intro j p s hs hresp hr
  induction j generalizing s with
  | zero =>
    rw [Nat.zero_mul, drawLoop]
    exact ⟨fun r t h => (nomatch h), fun t h => by rw [← (Prod.mk.inj h).2]; rfl⟩
  | succ j ih =>
    have hstep := step_inProgress_of_nil hr hs
    have hD := drawLoop_drawn s.drawBudget p s
    rw [Nat.succ_mul, Nat.add_comm, drawLoop_add]
    rcases hd : drawLoop s.drawBudget p s with ⟨_ | r', u⟩
    · rw [runSampling_none hd] at hstep
      rw [hd] at hD
      obtain ⟨v, m, rfl⟩ := hD
      obtain ⟨haccept, hreject⟩ := ih { s with
        stateReg := v, timePort := s.timePort.drop m, clockSamples := s.clockSamples + m } hs hresp hr
      have hnext : step s = .next { s with
          stateReg := v, timePort := s.timePort.drop m, clockSamples := s.clockSamples + m } := by
        rw [hstep, State.keepSampling, ← hs, ← hresp]
      refine ⟨fun r t h => ?_, fun t h => (steps_succ_of_next hnext j).trans (hreject t h)⟩
      obtain ⟨i, hi, hsteps⟩ := haccept r t h
      exact ⟨i + 1, by omega, (steps_succ_of_next hnext i).trans hsteps⟩
    · rw [runSampling_some hd] at hstep
      simp only [Option.isSome_some, if_true]
      refine ⟨fun r t h => ⟨1, by omega, ?_⟩, fun t h => (nomatch h)⟩
      cases h
      exact (steps_succ_of_next hstep 0).trans rfl

/-! ## Clock samples -/

/-- A step that makes `d` draws is the loop of `d` draws (R141). -/
theorem drawLoop_of_drawsMade {d : Nat} {p : Sampling} {s : State} (h : drawsMade d p s) :
    drawLoop s.drawBudget p s = drawLoop d p s := by
  obtain ⟨hd, -, rfl | hsome⟩ := h
  · rfl
  · obtain ⟨e, he⟩ := Nat.exists_eq_add_of_le hd
    rw [he, drawLoop_add, if_pos (Option.isSome_iff_ne_none.mpr hsome)]

/-- A draw after `d` rejected ones takes its words from where those stopped (R127). -/
theorem drawLoop_words (d : Nat) (p : Sampling) (s : State) (h : ∀ e, e < d → (drawLoop e p s).1 = none) :
    (drawLoop d p s).2 = nextWord^[d * wordsFor p.k] s := by
  induction d with
  | zero => rw [Nat.zero_mul]; rfl
  | succ d ih =>
    have hone (u : State) : (drawLoop 1 p u).2 = (randbits p.k u).2 := by
      simp only [drawLoop]
      split <;> rfl
    rw [drawLoop_add, h d (Nat.lt_succ_self d), Option.isSome_none, if_neg Bool.false_ne_true, hone,
      ih fun e he => h e (by omega), randbits_words, ← Function.iterate_add_apply, Nat.succ_mul, Nat.add_comm]

/-- The clock's two fields after a step of the loop are those after its draws. -/
theorem runSampling_clock (p : Sampling) (s : State) :
    (runSampling p s).clockSamples = (drawLoop s.drawBudget p s).2.clockSamples ∧
      (runSampling p s).timePort = (drawLoop s.drawBudget p s).2.timePort := by
  rcases runSampling_cases p s with ⟨r, t, hd, -, he⟩ | ⟨t, hd, he⟩ <;> rw [hd, he] <;> exact ⟨rfl, rfl⟩

/-- So a step that makes `d` draws samples the clock as its words do. -/
theorem runSampling_clock_of_drawsMade {d : Nat} {p : Sampling} {s : State} (h : drawsMade d p s) :
    (runSampling p s).clockSamples = s.clockSamples + lazySeeds (d * wordsFor p.k) s ∧
      (runSampling p s).timePort = s.timePort.drop (lazySeeds (d * wordsFor p.k) s) := by
  obtain ⟨hc, ht⟩ := runSampling_clock p s
  rw [hc, ht, drawLoop_of_drawsMade h, drawLoop_words d p s h.2.1]
  exact words_clock _ s

/-- The reset input is not looked at by the draws. -/
theorem runSampling_tickReset_clock (p : Sampling) (s : State) :
    (runSampling p s.tickReset).clockSamples = (runSampling p s).clockSamples ∧
      (runSampling p s.tickReset).timePort = (runSampling p s).timePort := by
  have hloop : drawLoop s.drawBudget p s.tickReset = _ :=
    drawLoop_withOthers s.drawBudget p s s.sampling s.response s.opA s.opB s.resetPort.tail s.drawBudget
  obtain ⟨hc, ht⟩ := runSampling_clock p s
  obtain ⟨hc', ht'⟩ := runSampling_clock p s.tickReset
  rw [hc, ht, hc', ht', tickReset_drawBudget, hloop]
  exact ⟨rfl, rfl⟩

/-- Settles O58: RANDBITS takes the words of one draw, a step of the loop those of all its draws. -/
theorem clockSamplesOfTheDraws : Obligations.ClockSamplesOfTheDraws := by
  refine ⟨fun s t v h hr => ?randbits, fun s t p d hd h => ?loop⟩
  case randbits =>
    rcases execRandbits_cases s with ⟨-, he⟩ | ⟨-, he⟩ <;> rw [← next_inj (he.symm.trans h)] at hr ⊢
    · rw [respondOk_eq, respond_clockSamples, respond_timePort, randbits_words]
      exact words_clock _ s
    · simp at hr
  case loop =>
    have hclock := runSampling_clock_of_drawsMade hd
    rcases h with ⟨hA, rfl, h⟩ | ⟨inc, hn, rfl, h⟩ | ⟨hr, hs, h⟩
    · rw [execUbelow_of_pos (by omega)] at h
      exact next_inj h ▸ hclock
    · rw [execRange_of_pos (show 0 < rangeSize s.opA s.opB inc from hn)] at h
      exact next_inj h ▸ hclock
    · rw [step_inProgress hr hs] at h
      obtain ⟨hc, ht⟩ := runSampling_tickReset_clock p s
      rw [← next_inj h, hc, ht]
      exact hclock

end Sys2Proof.Machine
end

section
/-! PROOFS. The assembler (30_encoding.md rules R72, R73) and the host software (44_host_decimal_mode.md rules R160 to R168). -/

namespace Sys2Proof.Machine

/-! ## The assembler -/

/-- Settles O55: the table of R72 form by form; the assembler's check is that both operands fit. -/
theorem assemblerForms : Obligations.AssemblerForms := by
  refine ⟨fun a b c => ⟨rfl, rfl, rfl, rfl, rfl, rfl, rfl, rfl, rfl, rfl, rfl, rfl, rfl, rfl, rfl⟩, fun w l => ?_⟩
  rw [assemble, ← Bool.and_eq_true_iff, ← Command.presentable]
  cases l.command.presentable w <;> simp

/-! ## Decimal bounds -/

/-- Digits are read from the left: the value of the first part is what the second part is appended to. -/
theorem digitsValue_append (base : Nat) (digit : Char → Option Nat) (f g : List Char) (acc : Nat) :
    digitsValue base digit (f ++ g) acc = (digitsValue base digit f acc).bind (digitsValue base digit g) := by
  induction f generalizing acc with
  | nil => rfl
  | cons c f ih =>
    simp only [List.cons_append, digitsValue]
    cases digit c with
    | none => rfl
    | some d => exact ih _

theorem digitsValue_zeros (m acc : Nat) :
    digitsValue 10 decimalDigit (List.replicate m '0') acc = some (acc * 10 ^ m) := by
  induction m generalizing acc with
  | zero => simp [digitsValue]
  | succ m ih =>
    have hzero : decimalDigit '0' = some 0 := by decide
    simp only [List.replicate_succ, digitsValue, hzero, ih, Nat.add_zero, Option.some.injEq]
    ring

/-- Each zero appended multiplies by 10; a text that is no number stays none (R164). -/
theorem digitsOrZero_append_zeros (f : List Char) (m : Nat) :
    digitsOrZero (f ++ List.replicate m '0') = digitsOrZero f * 10 ^ m := by
  rw [digitsOrZero, digitsOrZero, digitsValue_append]
  cases digitsValue 10 decimalDigit f 0 with
  | none => simp
  | some v => simp [digitsValue_zeros]

theorem fitFraction_of_length_le {p : Nat} {f : List Char} (h : f.length ≤ p) :
    fitFraction p f = f ++ List.replicate (p - f.length) '0' := by
  rw [fitFraction, List.take_of_length_le h]

theorem fitFraction_of_le_length {p : Nat} {f : List Char} (h : p ≤ f.length) : fitFraction p f = f.take p := by
  rw [fitFraction, Nat.sub_eq_zero_of_le h, List.replicate_zero, List.append_nil]

theorem scaled_eq (d : DecimalText) (p : Nat) :
    d.scaled p =
      (if d.negative then -1 else 1) *
        ((digitsOrZero d.whole * 10 ^ p + digitsOrZero (fitFraction p d.frac) : Nat) : Int) := by
  unfold DecimalText.scaled
  split <;> simp

/-- Settles O57: the fraction is filled with zeros or cut to `p` digits. -/
theorem decimalScaling : Obligations.DecimalScaling := by
  intro neg whole frac p
  refine ⟨fun h => ?short, fun h => ?long⟩
  case short => rw [scaled_eq, fitFraction_of_length_le h, digitsOrZero_append_zeros]
  case long => rw [scaled_eq, fitFraction_of_le_length h]

/-- Settles O56: two integers without a precision are integer mode; the two texts are read digit by digit. -/
theorem hostCallsIssueRange : Obligations.HostCallsIssueRange := by
  refine ⟨fun a b inclusive => ?_, by decide, rfl⟩
  rw [ApiCall.plan, if_pos rfl, rangeLine]

end Sys2Proof.Machine
end
